-- ==== Sys2Proof/Word.lean ====
section
/-! DEFINITION. The word types of the block codec: what the spec treats as bits (00 section 5, 30 R40 to R46). Values
between the stages are exact rationals (`Rat`, R7) and exact integers (`Int`, R118), not words. -/

namespace Sys2Proof

/-- One R, G or B sample: unsigned, 0 to 255 (R42). -/
abbrev Sample := BitVec 8

/-- One packed block (R46). -/
abbrev Codeword := BitVec 32

/-- The 96 data bits of a command or of a response (R40, R45). -/
abbrev Payload := BitVec 96

/-- A command word `CMD[96:0] = cmd_op ‖ cmd_data` (R40). -/
abbrev CommandWord := BitVec 97

/-- A response word `RSP[96:0] = rsp_op ‖ rsp_data` (R45). -/
abbrev ResponseWord := BitVec 97

/-- One byte of the container's codeword stream (R35). -/
abbrev Byte := BitVec 8

end Sys2Proof
end

