-- ==== Sys2Proof/Machine/Arith.lean ====
section
/-! DEFINITION. The arithmetic primitives of the spec (00 section 5, R7, R8, R9; 40 R66): exact on rationals and integers. -/

namespace Sys2Proof.Machine

/-- R8: `lo` if `x < lo`, `hi` if `x > hi`, else `x`. Silent: no flag records that it acted. -/
def clamp {α : Type} [LT α] [DecidableLT α] (x lo hi : α) : α :=
  if x < lo then lo else if hi < x then hi else x

/-- R9: the nearest integer, half-way cases away from zero. -/
def roundAway (q : Rat) : Int :=
  if 0 ≤ q then ⌊q + 1 / 2⌋ else -⌊-q + 1 / 2⌋

/-- `rdiv(n, d)` of R66: `round(n/d)` for `d > 0`, in integers only. -/
def rdiv (n d : Int) : Int :=
  if 0 ≤ n then (2 * n + d) / (2 * d) else -((2 * -n + d) / (2 * d))

/-- `sext_5(v)` (00 section 5): the two's complement value of a 5-bit vector. -/
def sext5 (v : BitVec 5) : Int := if v.getLsbD 4 then (v.toNat : Int) - 32 else v.toNat

/-- `zext_N(v)` (00 section 5): the vector as a non-negative integer. -/
def zext {n : Nat} (v : BitVec n) : Int := v.toNat

/-- `trunc_N(i)` (00 section 5): the N-bit vector equal to `i mod 2^N`. -/
def trunc (n : Nat) (i : Int) : BitVec n := BitVec.ofInt n i

end Sys2Proof.Machine
end

