-- ==== Sys2Proof/Config.lean ====
section
/-! DEFINITION. What a build of the block fixes (R5, R14): the three numeric tables, as fields of a structure, with the
constraints of R6; and the one free value of the model, the state before any reset (R19). The default values of the
tables stand in Machine/Tables.lean. -/

namespace Sys2Proof

/-- One row of a 3×3 matrix. -/
structure Row3 where
  x : Rat
  y : Rat
  z : Rat
deriving DecidableEq, Repr

/-- The linear form of a row. -/
def Row3.dot (m : Row3) (x y z : Rat) : Rat := m.x * x + m.y * y + m.z * z

/-- A 3×3 matrix of exact rationals, by rows. -/
structure Mat3 where
  row0 : Row3
  row1 : Row3
  row2 : Row3
deriving DecidableEq, Repr

/-- The product of two matrices (used by R65). -/
def Mat3.mul (m n : Mat3) : Mat3 :=
  let col (r : Row3) : Row3 :=
    ⟨r.dot n.row0.x n.row1.x n.row2.x, r.dot n.row0.y n.row1.y n.row2.y, r.dot n.row0.z n.row1.z n.row2.z⟩
  ⟨col m.row0, col m.row1, col m.row2⟩

/-- The identity matrix. -/
def Mat3.one : Mat3 := ⟨⟨1, 0, 0⟩, ⟨0, 1, 0⟩, ⟨0, 0, 1⟩⟩

/-- The three tables the source names and does not give (R5). They are the same at every edge and no port reads or writes
them (R14). -/
structure Config where
  /-- `CSC_FWD`: rows luma, chroma-blue, chroma-red, columns R, G, B. -/
  fwdMatrix : Mat3
  /-- `CSC_INV`: rows R, G, B, columns luma, chroma-blue, chroma-red. -/
  invMatrix : Mat3
  /-- `CHROMA_LUT[0..15]`. -/
  chromaLut : Vector Rat 16
deriving DecidableEq, Repr

/-- R6, luma row: non-negative entries that sum to 1. -/
abbrev Row3.IsLuma (m : Row3) : Prop := 0 ≤ m.x ∧ 0 ≤ m.y ∧ 0 ≤ m.z ∧ m.x + m.y + m.z = 1

/-- R6, chroma row: the entries sum to 0, the positive ones to at most 1/2, the negative ones to at least -1/2. -/
abbrev Row3.IsChroma (m : Row3) : Prop :=
  m.x + m.y + m.z = 0 ∧ max m.x 0 + max m.y 0 + max m.z 0 ≤ 1 / 2 ∧
    -(1 / 2) ≤ min m.x 0 + min m.y 0 + min m.z 0

/-- R6, the chroma table: strictly increasing, all 16 values in [-1/2, 1/2]. -/
abbrev Config.LutValid (cfg : Config) : Prop :=
  (∀ i j : Fin 16, i < j → cfg.chromaLut[i] < cfg.chromaLut[j]) ∧
    ∀ i : Fin 16, -(1 / 2) ≤ cfg.chromaLut[i] ∧ cfg.chromaLut[i] ≤ 1 / 2

/-- The constraints of R6 that every value of the parameters must meet, the inverse pair apart. -/
abbrev Config.Valid (cfg : Config) : Prop :=
  cfg.fwdMatrix.row0.IsLuma ∧ cfg.fwdMatrix.row1.IsChroma ∧ cfg.fwdMatrix.row2.IsChroma ∧ cfg.LutValid

/-- R6, the inverse pair, exactly: "must be the exact inverse pair used by the reference format". The defaults meet it only
to within 6×10⁻⁷ per entry (R65). -/
abbrev Config.ExactInverse (cfg : Config) : Prop := cfg.invMatrix.mul cfg.fwdMatrix = Mat3.one

/-- FREE VALUE (log entry 3): the 98 bits of the result register before the first reset edge, `RSP_VALID ‖ RSP_OP ‖
RSP_DATA`. R19 gives them no defined value; nothing in Lean can evaluate this constant. -/
opaque Config.powerUp : BitVec 98

end Sys2Proof
end

