-- ==== Sys2Proof/Machine/Tables.lean ====
section
/-! DEFINITION. The constants of R4 and the default values of the three tables of R5 (R61, R64, R91), in one place (R85):
the forward and the inverse functions read the same ones. -/

namespace Sys2Proof.Machine

/-- `SAMPLE_MAX` (R4, D3). -/
def sampleMax : Rat := 255

/-- `DC_SCALE` (R4). -/
def dcScale : Rat := 511

/-- `AC_CLAMP` (R4): the clamp bound of b, c, d. -/
def acClamp : Rat := 3 / 10

/-- `AC_SCALE` (R4): exactly 50 (C3). -/
def acScale : Rat := 50

/-- `AC_MAX` (R4). -/
def acMax : Int := 15

/-- The bound of `CHROMA_RANGE` (R4). -/
def chromaBound : Rat := 1 / 2

/-- R61, the default `CSC_FWD`; the spec marks its values "from general knowledge, not in source" (G1). -/
def defaultFwd : Mat3 :=
  ⟨⟨299 / 1000, 587 / 1000, 114 / 1000⟩,
   ⟨-168736 / 1000000, -331264 / 1000000, 5 / 10⟩,
   ⟨5 / 10, -418688 / 1000000, -81312 / 1000000⟩⟩

/-- R64, the default `CSC_INV`; the spec marks its values "from general knowledge, not in source" (G2). -/
def defaultInv : Mat3 :=
  ⟨⟨1, 0, 1402 / 1000⟩,
   ⟨1, -344136 / 1000000, -714136 / 1000000⟩,
   ⟨1, 1772 / 1000, 0⟩⟩

/-- `K[i]` of R91: the default chroma table in thousandths; the spec marks its values "from
general knowledge, not in source" (G3). -/
def kTable : Vector Int 16 :=
  #v[-350, -200, -150, -100, -77, -55, -33, -11, 11, 33, 55, 77, 100, 150, 200, 350]

/-- R91: `CHROMA_LUT[i] = K[i]/1000`. -/
def defaultLut : Vector Rat 16 := kTable.map fun k : Int => (k : Rat) / 1000

/-- The parameters at their defaults (R5, D4, D5, D9). DESIGN CHOICE (log entry 4): the machine behind the fixed
names is built with them. -/
def defaults : Config := { fwdMatrix := defaultFwd, invMatrix := defaultInv, chromaLut := defaultLut }

end Sys2Proof.Machine
end

