-- ==== Sys2Proof/Machine/Chroma.lean ====
section
/-! DEFINITION. The chroma quantizer (43): `chroma_mean` (R90), `index_of_chroma` (R92), `chroma_of_index` (R93). -/

namespace Sys2Proof.Machine

/-- `chroma_mean` (R90): the exact mean of four unquantized values. -/
def chromaMean (v0 v1 v2 v3 : Rat) : Rat := (v0 + v1 + v2 + v3) / 4

/-- The distance from `x` to entry `i` of the table. -/
def lutDistance (cfg : Config) (x : Rat) (i : Fin 16) : Rat := |x - cfg.chromaLut[i]|

/-- The scan of R92 over a list of candidates: a candidate replaces the best so far on a strictly smaller distance only, so
the lowest index among equals stays. -/
def scanNearest (cfg : Config) (x : Rat) (best : Fin 16) : List (Fin 16) → Fin 16
  | [] => best
  | i :: rest => scanNearest cfg x (if lutDistance cfg x i < lutDistance cfg x best then i else best) rest

/-- `index_of_chroma` (R92): clamp to [-1/2, 1/2], then the smallest index of a nearest entry. -/
def indexOfChroma (cfg : Config) (x : Rat) : Fin 16 :=
  scanNearest cfg (clamp x (-chromaBound) chromaBound) 0 [1, 2, 3, 4, 5, 6, 7, 8, 9, 10, 11, 12, 13, 14, 15]

/-- `chroma_of_index` (R93): entry `i` of the table; every index is in range. -/
def chromaOfIndex (cfg : Config) (i : Fin 16) : Rat := cfg.chromaLut[i]

end Sys2Proof.Machine
end

