-- ==== Sys2Proof/Syntax.lean ====
section
/-! DEFINITION. The commands of the block codec as syntax: one constructor per row of spec/opcode_table.json, and the
two shorthand forms of R52, which are no commands of their own. -/

namespace Sys2Proof

/-- A pixel: three unsigned 8-bit samples (R42). -/
structure Pixel where
  r : Sample
  g : Sample
  b : Sample
deriving DecidableEq, Repr

/-- The two commands (R41). -/
inductive Instr where
  /-- `ENC`: the four pixels of one block, top-left, top-right, bottom-left, bottom-right (R43, R110). -/
  | enc (p0 p1 p2 p3 : Pixel)
  /-- `DEC`: the ignored upper 64 payload bits and the codeword (R44, R111). -/
  | dec (ignored : BitVec 64) (w : Codeword)
deriving DecidableEq, Repr

/-- The mnemonic of a command, as the opcode table spells it (R41). -/
def Instr.mnemonic : Instr → String
  | .enc _ _ _ _ => "ENC"
  | .dec _ _ => "DEC"

/-- The shorthand forms of R52. They have no encoding of their own. -/
inductive Shorthand where
  /-- `ENCG v0, v1, v2, v3`: a grey block. -/
  | encg (v0 v1 v2 v3 : Sample)
  /-- `DECF a, b, c, d, pb, pr`: decode from field values. -/
  | decf (a b c d pb pr : Int)
deriving DecidableEq, Repr

end Sys2Proof
end

