-- ==== Sys2Proof/WellFormed.lean ====
section
/-! DEFINITION. Which terms of the syntax are well formed. No command word is illegal (R50), so every `Instr` is; the
operands of `DECF` are integers with the ranges of R52, one check each. -/

namespace Sys2Proof

/-- Every command is well formed: four pixels of 24 bits are always valid, and every `DEC` payload is acceptable (R50). -/
def Instr.wellFormed : Instr → Bool
  | .enc _ _ _ _ => true
  | .dec _ _ => true

/-- `lo <= v <= hi`. -/
def inRange (lo hi v : Int) : Bool := decide (lo ≤ v) && decide (v ≤ hi)

/-- The operand ranges of the shorthand forms (R52): `0 <= a <= 511`, `-16 <= b,c,d <= 15`, `0 <= pb,pr <= 15`. -/
def Shorthand.wellFormed : Shorthand → Bool
  | .encg _ _ _ _ => true
  | .decf a b c d pb pr =>
    inRange 0 511 a && inRange (-16) 15 b && inRange (-16) 15 c && inRange (-16) 15 d &&
      inRange 0 15 pb && inRange 0 15 pr

end Sys2Proof
end

