-- ==== Sys2Proof/Decode.lean ====
section
/-! DEFINITION. Encodings of pixels and commands (30 R40 to R45, R50, R52): the decoder, total on command words, and after
it the encoder, written from the same tables. -/

namespace Sys2Proof

/-- R42: `R = PIX[23:16]`, `G = PIX[15:8]`, `B = PIX[7:0]`. -/
def Pixel.ofBits (v : BitVec 24) : Pixel :=
  ⟨v.extractLsb' 16 8, v.extractLsb' 8 8, v.extractLsb' 0 8⟩

/-- R42: `PIX[23:0] = R ‖ G ‖ B`. -/
def Pixel.toBits (p : Pixel) : BitVec 24 := p.r ++ p.g ++ p.b

/-- The pixel of block position `k` (0 to 3) in a 96-bit payload `P0 ‖ P1 ‖ P2 ‖ P3` (R43): position 0 is the top one. -/
def payloadPixel (d : Payload) (k : Nat) : Pixel := Pixel.ofBits (d.extractLsb' (24 * (3 - k)) 24)

/-- The payload `P0 ‖ P1 ‖ P2 ‖ P3` (R43, R45). -/
def payloadOfPixels (p0 p1 p2 p3 : Pixel) : Payload := p0.toBits ++ p1.toBits ++ p2.toBits ++ p3.toBits

/-- `cmd_op`, bit 96 of a command word (R40, R41). -/
def commandOp (c : CommandWord) : BitVec 1 := c.extractLsb' 96 1

/-- `cmd_data`, bits 95 to 0 of a command word (R40). -/
def commandData (c : CommandWord) : Payload := c.extractLsb' 0 96

/-- The decoder of command words. It is total and never answers "invalid" (R50): bit 96 selects the command (R41), the
payload is read by R43 or R44. -/
def decode (c : CommandWord) : Instr :=
  let d := commandData c
  if commandOp c = 0 then
    .enc (payloadPixel d 0) (payloadPixel d 1) (payloadPixel d 2) (payloadPixel d 3)
  else
    .dec (d.extractLsb' 32 64) (d.extractLsb' 0 32)

/-- Why a number is no command word. -/
inductive DecodeError where
  /-- The number has a bit above bit 96: a command is one fixed-length word of 97 bits (R40). -/
  | longerThan97Bits
deriving DecidableEq, Repr

/-- The decoder on any number, bit 0 the least significant bit of the command word. -/
def decodeNumber (w : Nat) : Except DecodeError Instr :=
  if w < 2 ^ 97 then .ok (decode (BitVec.ofNat 97 w)) else .error .longerThan97Bits

/-- The encoder (R43, R44): the word of a command. The ignored bits of a `DEC` are kept, so that no bit is dropped. -/
def encode : Instr → CommandWord
  | .enc p0 p1 p2 p3 => (0#1 ++ payloadOfPixels p0 p1 p2 p3).cast (by decide)
  | .dec u w => (1#1 ++ (u ++ w : BitVec 96)).cast (by decide)

/-- One row of spec/opcode_table.json: a word belongs to the row when `word &&& mask = pattern` (30 section 5). -/
structure OpcodeRow where
  mnemonic : String
  pattern : CommandWord
  mask : CommandWord
deriving DecidableEq, Repr

/-- The row of `ENC`: bit 96 is 0. -/
def encRow : OpcodeRow :=
  ⟨"ENC", 0x0000000000000000000000000#97, 0x1000000000000000000000000#97⟩

/-- The row of `DEC`: bit 96 is 1. -/
def decRow : OpcodeRow :=
  ⟨"DEC", 0x1000000000000000000000000#97, 0x1000000000000000000000000#97⟩

/-- The opcode table, in its order. -/
def opcodeTable : List OpcodeRow := [encRow, decRow]

/-- A command word belongs to a row of the table. -/
def OpcodeRow.selects (row : OpcodeRow) (c : CommandWord) : Bool := c &&& row.mask == row.pattern

/-- The row of a command. -/
def Instr.row : Instr → OpcodeRow
  | .enc _ _ _ _ => encRow
  | .dec _ _ => decRow

/-- The codeword of `DECF` (R52): `w = a*2^23 + (b mod 32)*2^18 + (c mod 32)*2^13 + (d mod 32)*2^8 + pb*16 + pr`. -/
def decfWord (a b c d pb pr : Int) : Codeword :=
  BitVec.ofInt 32
    (a * 2 ^ 23 + (b % 32) * 2 ^ 18 + (c % 32) * 2 ^ 13 + (d % 32) * 2 ^ 8 + pb * 16 + pr)

/-- The command a shorthand form stands for (R52); none where an operand is out of its range. -/
def Shorthand.expand (h : Shorthand) : Option Instr :=
  if h.wellFormed then
    match h with
    | .encg v0 v1 v2 v3 => some (.enc ⟨v0, v0, v0⟩ ⟨v1, v1, v1⟩ ⟨v2, v2, v2⟩ ⟨v3, v3, v3⟩)
    | .decf a b c d pb pr => some (.dec 0 (decfWord a b c d pb pr))
  else none

/-- The command the decoder reads from the number `w`, bits numbered as spec/opcode_table.json numbers them. A command has
one length, 97 bits (R40), so the row's length `nbits` adds nothing to `w`. -/
def decodeTableWord (_nbits w : Nat) : Option Instr :=
  match decodeNumber w with
  | .ok i => some i
  | .error _ => none

end Sys2Proof
end

