-- ==== Sys2Proof/Machine/ColorSpace.lean ====
section
/-! DEFINITION. The Color Space Converter (40): `csc_fwd` (R60) and `csc_inv` (R63). Pointwise, pure, total. -/

namespace Sys2Proof.Machine

/-- A component-video pixel (00 glossary): luma and the chroma pair, exact rationals. -/
structure ComponentVideo where
  y : Rat
  cb : Rat
  cr : Rat
deriving DecidableEq, Repr

/-- A sample divided by 255, exactly (R60). -/
def normalise (v : Sample) : Rat := (v.toNat : Rat) / sampleMax

/-- `csc_fwd` (R60). No rounding and no clamping. -/
def cscFwd (cfg : Config) (p : Pixel) : ComponentVideo :=
  let r := normalise p.r
  let g := normalise p.g
  let b := normalise p.b
  { y := cfg.fwdMatrix.row0.dot r g b
    cb := cfg.fwdMatrix.row1.dot r g b
    cr := cfg.fwdMatrix.row2.dot r g b }

/-- A real channel value as a sample: rounded, then clamped to 0..255 (R63). -/
def toSample (v : Rat) : Sample := trunc 8 (clamp (roundAway v) 0 255)

/-- `csc_inv` (R63), for rationals of any magnitude. -/
def cscInv (cfg : Config) (v : ComponentVideo) : Pixel :=
  { r := toSample (sampleMax * cfg.invMatrix.row0.dot v.y v.cb v.cr)
    g := toSample (sampleMax * cfg.invMatrix.row1.dot v.y v.cb v.cr)
    b := toSample (sampleMax * cfg.invMatrix.row2.dot v.y v.cb v.cr) }

end Sys2Proof.Machine
end

