-- ==== Sys2Proof/Machine/Operands.lean ====
section
/-! DEFINITION. The operand and result forms of the commands: the six fields of a codeword with `pack` and `unpack` (30 R46 to
R48; 44 R100, R101), the four pixels of a block, and the response word (30 R45). -/

namespace Sys2Proof.Machine

/-- The six fields of a codeword, each a vector of its declared width (R46), so that a field value outside its width cannot
be presented to `pack` (R100, U1). -/
structure Fields where
  a : BitVec 9
  b : BitVec 5
  c : BitVec 5
  d : BitVec 5
  pb : BitVec 4
  pr : BitVec 4
deriving DecidableEq, Repr

/-- The fields that hold six integers (R47, R48): unsigned as they are, signed by two's complement. Lossless on the operand
ranges of R100. -/
def Fields.ofInts (a b c d pb pr : Int) : Fields :=
  ⟨trunc 9 a, trunc 5 b, trunc 5 c, trunc 5 d, trunc 4 pb, trunc 4 pr⟩

/-- `pack` (R100): the fields from the most significant bit down, with no gaps (R46). -/
def pack (f : Fields) : Codeword := f.a ++ f.b ++ f.c ++ f.d ++ f.pb ++ f.pr

/-- `unpack` (R101): each field by its fixed offset and width. -/
def unpack (w : Codeword) : Fields :=
  { a := w.extractLsb' 23 9
    b := w.extractLsb' 18 5
    c := w.extractLsb' 13 5
    d := w.extractLsb' 8 5
    pb := w.extractLsb' 4 4
    pr := w.extractLsb' 0 4 }

/-- The six integers of a codeword, as R101 returns them: `zext` of the unsigned fields, `sext_5` of the signed ones. -/
def Fields.toInts (f : Fields) : Int × Int × Int × Int × Int × Int :=
  (zext f.a, sext5 f.b, sext5 f.c, sext5 f.d, zext f.pb, zext f.pr)

/-- The four pixels of one block, in block order (R37, R43). -/
structure Block where
  p0 : Pixel
  p1 : Pixel
  p2 : Pixel
  p3 : Pixel
deriving DecidableEq, Repr

/-- The block in a 96-bit payload, `pix` of R116 four times. -/
def Block.ofPayload (d : Payload) : Block :=
  ⟨payloadPixel d 0, payloadPixel d 1, payloadPixel d 2, payloadPixel d 3⟩

/-- `enc_pix` of R116 four times, the first pixel on top. -/
def Block.toPayload (k : Block) : Payload := payloadOfPixels k.p0 k.p1 k.p2 k.p3

/-- A response: the op bit of its command and 96 data bits (R45). -/
structure Response where
  op : BitVec 1
  data : Payload
deriving DecidableEq, Repr

/-- `RSP[96:0] = rsp_op ‖ rsp_data` (R45). -/
def Response.word (r : Response) : ResponseWord := (r.op ++ r.data).cast (by decide)

/-- The response of an `ENC` whose codeword is `w` (R45): op 0, `RSP[31:0]` the codeword, `RSP[95:32]` zero. -/
def Response.ofCodeword (w : Codeword) : Response := ⟨0, w.setWidth 96⟩

/-- The response of a `DEC` whose pixels are `k` (R45): op 1, `P0 ‖ P1 ‖ P2 ‖ P3`. -/
def Response.ofBlock (k : Block) : Response := ⟨1, k.toPayload⟩

end Sys2Proof.Machine
end

