-- ==== Sys2Proof/Machine/State.lean ====
section
/-! DEFINITION. The state of the block (10 R10, R11, R18, R19): the result register, and the input samples of the coming
rising edges as plain data. -/

namespace Sys2Proof.Machine

/-- The input ports as sampled at one rising edge of `clk` (R11). `clk` itself is the step. -/
structure Ports where
  rst : Bool
  cmdValid : Bool
  cmdOp : BitVec 1
  cmdData : Payload
  rspReady : Bool
deriving DecidableEq, Repr

/-- An edge at which the host presents nothing and takes nothing. DESIGN CHOICE (log entry 2): the ports when no further
edge is listed. -/
def Ports.idle : Ports :=
  { rst := false, cmdValid := false, cmdOp := 0, cmdData := 0, rspReady := false }

/-- The state. The first three fields are the architectural state, "exactly three elements" (R10); `edges` is the model's own
(log entry 1). -/
structure State where
  /-- `RSP_VALID`: the register holds a response the host has not yet taken. -/
  rspValid : Bool
  /-- `RSP_OP`: the op bit of the command that produced the response. -/
  rspOp : BitVec 1
  /-- `RSP_DATA`: the response payload (R45). -/
  rspData : Payload
  /-- The port samples of the coming rising edges, next edge first. -/
  edges : List Ports
deriving DecidableEq, Repr

/-- No command faults (R130): "it has no fault arm and no refusal arm". The type has no constructor. -/
inductive Fault where
deriving DecidableEq, Repr

/-- Nothing raises a refusal (R130). -/
inductive Refusal where
  /-- A command with no meaning yet, by its mnemonic. No arm of `exec` raises it. Safe. -/
  | notModelled (mnemonic : String)
deriving DecidableEq, Repr

/-- The state after a reset edge (R18): all 98 bits 0. No edge is listed (log entry 1). -/
def State.reset : State :=
  { rspValid := false, rspOp := 0, rspData := 0, edges := [] }

/-- The state before the first reset edge (R19): the register holds no defined value, the free value `Config.powerUp`. -/
def State.powerUp (edges : List Ports) : State :=
  { rspValid := Config.powerUp.getLsbD 97
    rspOp := Config.powerUp.extractLsb' 96 1
    rspData := Config.powerUp.extractLsb' 0 96
    edges := edges }

end Sys2Proof.Machine
end

