-- ==== Sys2Proof/Machine/Flags.lean ====
section
/-! DEFINITION. The one-bit signals. The block has no arithmetic flag of any kind (R15, R133); its only one-bit results are
the handshake signals of R12, R13 and R20, combinational functions of the register and of the ports as they stand before
the edge. -/

namespace Sys2Proof.Machine

/-- The input ports just before the next rising edge: the first listed sample, the idle ports where none is listed. -/
def State.ports (s : State) : Ports := s.edges.headD Ports.idle

/-- The command word on the ports, `cmd_op ‖ cmd_data` (R40). -/
def Ports.command (p : Ports) : CommandWord := (p.cmdOp ++ p.cmdData).cast (by decide)

/-- `cmd_ready = (not rst) and ((not RSP_VALID) or rsp_ready)` (R13). -/
def State.cmdReady (s : State) : Bool := !s.ports.rst && (!s.rspValid || s.ports.rspReady)

/-- The output `rsp_valid = RSP_VALID and not rst` (R12). -/
def State.rspValidOut (s : State) : Bool := s.rspValid && !s.ports.rst

/-- The output ports (R12). `rsp_op` and `rsp_data` show the register at all times. -/
structure Outputs where
  cmdReady : Bool
  rspValid : Bool
  rspOp : BitVec 1
  rspData : Payload
deriving DecidableEq, Repr

/-- The output ports just before the next edge (R12, R13). -/
def State.outputs (s : State) : Outputs :=
  { cmdReady := s.cmdReady, rspValid := s.rspValidOut, rspOp := s.rspOp, rspData := s.rspData }

/-- `accept` of R20: a command is taken at the next edge. -/
def State.accept (s : State) : Bool := s.ports.cmdValid && s.cmdReady

/-- `deliver` of R20: the host takes the held response at the next edge. -/
def State.deliver (s : State) : Bool := s.rspValidOut && s.ports.rspReady

/-- The response in the register (R10). Meaningful only while it is valid (R154). -/
def State.response (s : State) : Response := ⟨s.rspOp, s.rspData⟩

/-- The responses held and not yet taken: one or none (R10). -/
def State.held (s : State) : List Response := if s.rspValid then [s.response] else []

end Sys2Proof.Machine
end

