-- ==== Sys2Proof/Machine/Ops.lean ====
section
/-! DEFINITION. The named operations over the state: the writes of R20 to the result register and the use of one input sample.
There is no memory (R30), no register file (R16), no exception to take and none to return from (R130): "With no exceptions
there is no priority among them, no trap entry, no saved state, no vector, no return instruction". -/

namespace Sys2Proof.Machine

/-- One edge has passed: its input sample is used up. -/
def State.advance (s : State) : State := { s with edges := s.edges.tail }

/-- The reset branch of R20 (R18): all three elements of the register to 0. -/
def State.clear (s : State) : State := { s with rspValid := false, rspOp := 0, rspData := 0 }

/-- The accept branch of R20: the response of the accepted command is in the register, and valid. -/
def State.hold (r : Response) (s : State) : State := { s with rspValid := true, rspOp := r.op, rspData := r.data }

/-- The deliver branch of R20: `RSP_VALID <- 0`, and `RSP_OP` and `RSP_DATA` keep their values. -/
def State.release (s : State) : State := { s with rspValid := false }

/-- An edge at which the host presents the command word `c` and can take a response. -/
def Ports.presenting (c : CommandWord) : Ports :=
  { rst := false, cmdValid := true, cmdOp := commandOp c, cmdData := commandData c, rspReady := true }

/-- An edge at which the host presents no command and can take a response. -/
def Ports.taking : Ports := { Ports.idle with rspReady := true }

/-- An edge with `rst = 1` (R18). -/
def Ports.resetting : Ports := { Ports.idle with rst := true }

/-- The state with the command word `c` presented at its next edge, in place of what was listed for that edge. -/
def State.present (c : CommandWord) (s : State) : State :=
  { s with edges := Ports.presenting c :: s.edges.tail }

end Sys2Proof.Machine
end

