-- ==== Sys2Proof/Machine/Quantizer.lean ====
section
/-! DEFINITION. The coefficient quantizer (42): `q_dc`, `q_ac` and their inverses. Total on every rational; saturation is
silent. -/

namespace Sys2Proof.Machine

/-- `q_dc` (R80): `round(clamp(a, 0, 1) * 511)`. -/
def qDc (a : Rat) : Int := roundAway (clamp a 0 1 * dcScale)

/-- `q_ac` (R81): `round(clamp(x, -3/10, 3/10) * 50)`. -/
def qAc (x : Rat) : Int := roundAway (clamp x (-acClamp) acClamp * acScale)

/-- `dq_dc` (R82): `clamp(a'/511, 0, 1)`. -/
def dqDc (a : Int) : Rat := clamp ((a : Rat) / dcScale) 0 1

/-- `dq_ac` (R83): `clamp(x'/50, -3/10, 3/10)`; -16 gives -3/10. -/
def dqAc (x : Int) : Rat := clamp ((x : Rat) / acScale) (-acClamp) acClamp

end Sys2Proof.Machine
end

