-- ==== Sys2Proof/Machine/Transform.lean ====
section
/-! DEFINITION. The 2×2 block transform (41): `bt_fwd` (R70) and `bt_inv` (R71), with the printed signs (C1). Neither rounds
nor clamps (R73). -/

namespace Sys2Proof.Machine

/-- The four luma values of a block: top-left, top-right, bottom-left, bottom-right. -/
structure Lumas where
  y0 : Rat
  y1 : Rat
  y2 : Rat
  y3 : Rat
deriving DecidableEq, Repr

/-- The four unquantized coefficients: the DC term and the three AC terms. -/
structure Coeffs where
  a : Rat
  b : Rat
  c : Rat
  d : Rat
deriving DecidableEq, Repr

/-- `bt_fwd` (R70). -/
def btFwd (y : Lumas) : Coeffs :=
  { a := (y.y0 + y.y1 + y.y2 + y.y3) / 4
    b := (y.y3 + y.y2 - y.y1 - y.y0) / 4
    c := (y.y3 - y.y2 + y.y1 - y.y0) / 4
    d := (y.y3 - y.y2 - y.y1 + y.y0) / 4 }

/-- `bt_inv` (R71). -/
def btInv (k : Coeffs) : Lumas :=
  { y0 := k.a - k.b - k.c + k.d
    y1 := k.a - k.b + k.c - k.d
    y2 := k.a + k.b - k.c - k.d
    y3 := k.a + k.b + k.c + k.d }

end Sys2Proof.Machine
end

