-- ==== Sys2Proof/Machine/BlockOps.lean ====
section
/-! DEFINITION. The two commands (45): `Enc` (R110), `Dec` (R111), `Exec` (R116), and the
meanings of `ENC` and `DEC`, for any value of the three tables (R5); and the two meanings in the machine behind the fixed names,
which is built with the default tables (log entry 4). -/

namespace Sys2Proof.Machine

/-- The fields of the codeword of a block: the lines of `Enc` before `pack` (R110). The quantized integers fit their widths
for every rational operand (R114), so `Fields.ofInts` loses nothing. -/
def encFields (cfg : Config) (k : Block) : Fields :=
  let v0 := cscFwd cfg k.p0
  let v1 := cscFwd cfg k.p1
  let v2 := cscFwd cfg k.p2
  let v3 := cscFwd cfg k.p3
  let t := btFwd ⟨v0.y, v1.y, v2.y, v3.y⟩
  Fields.ofInts (qDc t.a) (qAc t.b) (qAc t.c) (qAc t.d)
    (indexOfChroma cfg (chromaMean v0.cb v1.cb v2.cb v3.cb)).val
    (indexOfChroma cfg (chromaMean v0.cr v1.cr v2.cr v3.cr)).val

/-- `Enc` (R110). -/
def encBlock (cfg : Config) (k : Block) : Codeword := pack (encFields cfg k)

/-- The four luma values of `Dec` (R111), before `csc_inv`; they are not clamped (R73). -/
def decLumas (f : Fields) : Lumas :=
  btInv ⟨dqDc (zext f.a), dqAc (sext5 f.b), dqAc (sext5 f.c), dqAc (sext5 f.d)⟩

/-- `Dec` (R111): one chroma pair for all four pixels. -/
def decBlock (cfg : Config) (w : Codeword) : Block :=
  let f := unpack w
  let y := decLumas f
  let cb := chromaOfIndex cfg f.pb.toFin
  let cr := chromaOfIndex cfg f.pr.toFin
  { p0 := cscInv cfg ⟨y.y0, cb, cr⟩
    p1 := cscInv cfg ⟨y.y1, cb, cr⟩
    p2 := cscInv cfg ⟨y.y2, cb, cr⟩
    p3 := cscInv cfg ⟨y.y3, cb, cr⟩ }

/-- `Exec(op, data)` (R116): the function the clocked step stores into `RSP_DATA`. -/
def execPayload (cfg : Config) (op : BitVec 1) (data : Payload) : Payload :=
  if op = 0 then (encBlock cfg (Block.ofPayload data)).setWidth 96
  else (decBlock cfg (data.extractLsb' 0 32)).toPayload

/-- The response of `ENC` (R110, R45). -/
def encResponse (cfg : Config) (p0 p1 p2 p3 : Pixel) : Response :=
  Response.ofCodeword (encBlock cfg ⟨p0, p1, p2, p3⟩)

/-- The response of `DEC` (R111, R45). -/
def decResponse (cfg : Config) (w : Codeword) : Response := Response.ofBlock (decBlock cfg w)

/-- The response of a command: a function of the command word and the tables alone (R115). -/
def commandResponse (cfg : Config) : Instr → Response
  | .enc p0 p1 p2 p3 => encResponse cfg p0 p1 p2 p3
  | .dec _ w => decResponse cfg w

/-- The meaning of an accepted `ENC` in a block built with the tables `cfg` (R110, R20, R5): its response is in the result
register. -/
def execEncWith (cfg : Config) (p0 p1 p2 p3 : Pixel) (s : State) : Host.Outcome State Fault Refusal :=
  .next (s.hold (encResponse cfg p0 p1 p2 p3))

/-- The meaning of an accepted `DEC` in a block built with the tables `cfg` (R111, R20, R5): its response is in the result
register, whatever the ignored bits (R44). -/
def execDecWith (cfg : Config) (_ignored : BitVec 64) (w : Codeword) (s : State) : Host.Outcome State Fault Refusal :=
  .next (s.hold (decResponse cfg w))

/-- The meaning of an accepted `ENC` in the block built with the default tables (log entry 4). -/
def execEnc (p0 p1 p2 p3 : Pixel) (s : State) : Host.Outcome State Fault Refusal :=
  execEncWith defaults p0 p1 p2 p3 s

/-- The meaning of an accepted `DEC` in the block built with the default tables (log entry 4). -/
def execDec (ignored : BitVec 64) (w : Codeword) (s : State) : Host.Outcome State Fault Refusal :=
  execDecWith defaults ignored w s

end Sys2Proof.Machine
end

