-- ==== Sys2Proof/Machine/Dispatch.lean ====
section
/-! DEFINITION. The dispatch of the two commands to their meanings. -/

namespace Sys2Proof.Machine

/-- What an accepted command does to the state (R20, accept branch), in the block built with the default tables (log entry 4). -/
def exec (i : Instr) (s : State) : Host.Outcome State Fault Refusal :=
  match i with
  | .enc p0 p1 p2 p3 => Sys2Proof.Machine.execEnc p0 p1 p2 p3 s
  | .dec ignored w => Sys2Proof.Machine.execDec ignored w s

end Sys2Proof.Machine
end

