-- ==== Sys2Proof/Machine/Clock.lean ====
section
/-! DEFINITION. The clocked step (10 R20): what one rising edge of `clk` does. -/

namespace Sys2Proof.Machine

/-- The command the ports present (R40, R41): read by the decoder. -/
def State.command (s : State) : Instr := decode s.ports.command

/-- One rising edge (R20) of a block that runs an accepted command by `run`. All writes read the values from before the edge;
reset wins over accept, accept over deliver. -/
def edgeBy (run : Instr → State → Host.Outcome State Fault Refusal) (s : State) : Host.Outcome State Fault Refusal :=
  if s.ports.rst then .next s.advance.clear
  else if s.accept then run s.command s.advance
  else if s.deliver then .next s.advance.release
  else .next s.advance

/-- One rising edge of the block built with the default tables (log entry 4). -/
def clockEdge (s : State) : Host.Outcome State Fault Refusal := edgeBy exec s

end Sys2Proof.Machine
end

