-- ==== Sys2Proof/Machine/Step.lean ====
section
/-! DEFINITION. One step of the machine: one rising edge of `clk`. -/

namespace Sys2Proof.Machine

/-- One rising edge (R20) of the block built with the default tables (log entry 4; `stepWith` of Machine/Build.lean is the step of
any build). A next state in every case (R130). -/
def step (s : State) : Host.Outcome State Fault Refusal := clockEdge s

/-- The state with the command word of the number `w` presented at the very next edge, and taken there: `rst = 0`,
`cmd_valid = 1`, `rsp_ready = 1` (log entry 5). A command has one length, 97 bits, so the row's length `nbits` adds nothing. -/
def State.withFetchWord (s : State) (_nbits w : Nat) : State := s.present (BitVec.ofNat 97 w)

end Sys2Proof.Machine
end

