-- ==== Sys2Proof/Machine/IntegerForms.lean ====
section
/-! DEFINITION. The all-integer realisation for the default tables (R62, R66, R74, R86, R95, R112, R113): arithmetic on
mathematical integers, never wrapping (R118). `/` is `div` of 00 section 5: every divisor is a positive constant. -/

namespace Sys2Proof.Machine

/-- `YN` of R62. -/
def lumaNum (p : Pixel) : Int := 299 * zext p.r + 587 * zext p.g + 114 * zext p.b

/-- `CBN` of R62. -/
def cbNum (p : Pixel) : Int := -168736 * zext p.r - 331264 * zext p.g + 500000 * zext p.b

/-- `CRN` of R62. -/
def crNum (p : Pixel) : Int := 500000 * zext p.r - 418688 * zext p.g - 81312 * zext p.b

/-- `AN`, `BN`, `CN`, `DN` of R74. -/
structure CoeffNums where
  an : Int
  bn : Int
  cn : Int
  dn : Int
deriving DecidableEq, Repr

/-- The coefficient numerators of four luma numerators (R74), over 1020000. -/
def coeffNums (y0 y1 y2 y3 : Int) : CoeffNums :=
  { an := y0 + y1 + y2 + y3
    bn := y3 + y2 - y1 - y0
    cn := y3 - y2 + y1 - y0
    dn := y3 - y2 - y1 + y0 }

/-- `a'` of R86. -/
def qDcNum (an : Int) : Int := (511 * an + 510000) / 1020000

/-- `x'` of R86. -/
def qAcNum (xn : Int) : Int :=
  let c := clamp xn (-306000) 306000
  if 0 ≤ c then (c + 10200) / 20400 else -((-c + 10200) / 20400)

/-- `TH[j]` of R95, for `j` in 0..14. -/
def threshold (j : Fin 15) : Int := (kTable[j.val]'(by omega) + kTable[j.val + 1]'(by omega)) * 510000

/-- `pb` or `pr` of R95: the number of thresholds strictly below the sum. -/
def chromaIndexNum (s : Int) : Nat := ((List.finRange 15).filter fun j => threshold j < s).length

/-- `Enc` in integers only (R112). -/
def encFieldsNum (k : Block) : Fields :=
  let t := coeffNums (lumaNum k.p0) (lumaNum k.p1) (lumaNum k.p2) (lumaNum k.p3)
  Fields.ofInts (qDcNum t.an) (qAcNum t.bn) (qAcNum t.cn) (qAcNum t.dn)
    (chromaIndexNum (cbNum k.p0 + cbNum k.p1 + cbNum k.p2 + cbNum k.p3))
    (chromaIndexNum (crNum k.p0 + crNum k.p1 + crNum k.p2 + crNum k.p3))

/-- `Enc` in integers only (R112), packed. -/
def encBlockNum (k : Block) : Codeword := pack (encFieldsNum k)

/-- `LN0` to `LN3` of R74. -/
structure LumaNums where
  l0 : Int
  l1 : Int
  l2 : Int
  l3 : Int
deriving DecidableEq, Repr

/-- The luma numerators of a codeword's fields (R74, R113), over 25550: `bq`, `cq`, `dq` are clamped to -15..15 (R86). -/
def lumaNums (f : Fields) : LumaNums :=
  let a := zext f.a
  let b := clamp (sext5 f.b) (-acMax) acMax
  let c := clamp (sext5 f.c) (-acMax) acMax
  let d := clamp (sext5 f.d) (-acMax) acMax
  { l0 := 50 * a + 511 * (-b - c + d)
    l1 := 50 * a + 511 * (-b + c - d)
    l2 := 50 * a + 511 * (b - c - d)
    l3 := 50 * a + 511 * (b + c + d) }

/-- `RNUM` of R66. -/
def rNum (ln prk : Int) : Int := 255 * (20000 * ln + 716422 * prk)

/-- `GNUM` of R66. -/
def gNum (ln pbk prk : Int) : Int := 255 * (20000000 * ln - 175853496 * pbk - 364923496 * prk)

/-- `BNUM` of R66. -/
def bNum (ln pbk : Int) : Int := 255 * (20000 * ln + 905492 * pbk)

/-- A pixel from `LN`, `PBK`, `PRK` (R66). -/
def pixelNum (ln pbk prk : Int) : Pixel :=
  { r := trunc 8 (clamp (rdiv (rNum ln prk) 511000000) 0 255)
    g := trunc 8 (clamp (rdiv (gNum ln pbk prk) 511000000000) 0 255)
    b := trunc 8 (clamp (rdiv (bNum ln pbk) 511000000) 0 255) }

/-- `Dec` in integers only (R113). -/
def decBlockNum (w : Codeword) : Block :=
  let f := unpack w
  let l := lumaNums f
  let pbk := kTable[f.pb.toFin]
  let prk := kTable[f.pr.toFin]
  ⟨pixelNum l.l0 pbk prk, pixelNum l.l1 pbk prk, pixelNum l.l2 pbk prk, pixelNum l.l3 pbk prk⟩

end Sys2Proof.Machine
end

