-- ==== Sys2Proof/Machine/Text.lean ====
section
/-! DEFINITION. The textual form of commands and responses (30 R51, R52): what the spec's test vectors and programs are
written in. -/

namespace Sys2Proof.Machine

/-- One upper-case hex digit. -/
def hexDigit (n : Nat) : Char := "0123456789ABCDEF".toList.getD (n % 16) '0'

/-- The low `k` hex digits of a number, most significant first. -/
def hexDigits : Nat → Nat → List Char
  | 0, _ => []
  | k + 1, n => hexDigits k (n / 16) ++ [hexDigit n]

/-- A codeword: `0x` and 8 hex digits (R51). -/
def codewordText (w : Codeword) : String := "0x" ++ String.ofList (hexDigits 8 w.toNat)

/-- A sample in decimal. -/
def sampleText (v : Sample) : String := toString v.toNat

/-- A pixel: `(R,G,B)` in decimal (R51). -/
def pixelText (p : Pixel) : String :=
  "(" ++ sampleText p.r ++ "," ++ sampleText p.g ++ "," ++ sampleText p.b ++ ")"

/-- Four pixels. -/
def blockText (k : Block) : String :=
  pixelText k.p0 ++ ", " ++ pixelText k.p1 ++ ", " ++ pixelText k.p2 ++ ", " ++ pixelText k.p3

/-- A command (R51). -/
def commandText : Instr → String
  | .enc p0 p1 p2 p3 => "ENC " ++ blockText ⟨p0, p1, p2, p3⟩
  | .dec _ w => "DEC " ++ codewordText w

/-- A shorthand form (R52). -/
def shorthandText : Shorthand → String
  | .encg v0 v1 v2 v3 =>
    "ENCG " ++ sampleText v0 ++ ", " ++ sampleText v1 ++ ", " ++ sampleText v2 ++ ", " ++ sampleText v3
  | .decf a b c d pb pr =>
    "DECF " ++ toString a ++ ", " ++ toString b ++ ", " ++ toString c ++ ", " ++ toString d ++ ", " ++
      toString pb ++ ", " ++ toString pr

/-- A response (R51): `-> 0xHHHHHHHH` of an `ENC`, `->` and four pixels of a `DEC`. -/
def responseText (r : Response) : String :=
  if r.op = 0 then "-> " ++ codewordText (r.data.extractLsb' 0 32) else "-> " ++ blockText (Block.ofPayload r.data)

end Sys2Proof.Machine
end

