-- ==== Sys2Proof/Machine/Build.lean ====
section
/-! DEFINITION. The block as a function of its build-time tables (R5, 92 section 5: "A model takes exactly three arguments"): the
dispatch, the step and the machine of a build with any value of `CSC_FWD`, `CSC_INV` and `CHROMA_LUT`. The machine behind the
fixed names `exec`, `step` and `core` is the build with the defaults (log entry 4). -/

namespace Sys2Proof.Machine

/-- What an accepted command does in a block built with the tables `cfg`. -/
def execWith (cfg : Config) (i : Instr) (s : State) : Host.Outcome State Fault Refusal :=
  match i with
  | .enc p0 p1 p2 p3 => execEncWith cfg p0 p1 p2 p3 s
  | .dec ignored w => execDecWith cfg ignored w s

/-- One rising edge (R20) of a block built with the tables `cfg`. -/
def stepWith (cfg : Config) (s : State) : Host.Outcome State Fault Refusal := edgeBy (execWith cfg) s

/-- The machine of a build. The tables are no state (R14), so all builds have the same states and the same reset. -/
def coreWith (cfg : Config) : Host.Core :=
  { State := State
    Fault := Fault
    Refusal := Refusal
    step := stepWith cfg
    reset := State.reset }

end Sys2Proof.Machine
end

