-- ==== Sys2Proof/Machine/Stream.lean ====
section
/-! DEFINITION. The host's side of the codeword stream, which the spec states beside the block (20 R34 to R38, 60 R131,
R139): byte order, cutting a raster into blocks, placing decoded blocks, and the preconditions the host checks. These are
functions beside the machine; the block itself has no part in them (R2). The container's header line is left out (its text
is not in the source, N9). -/

namespace Sys2Proof.Machine

/-- A raster: pixels in row-major order (R37). -/
structure Raster where
  width : Nat
  height : Nat
  pixels : List Pixel
deriving DecidableEq, Repr

/-- What the host rejects before it issues a command (R131, U15). Never raised by the machine. Safe. -/
inductive HostError where
  /-- The width or the height is odd (R37). -/
  | oddDimensions
  /-- The pixel list has not `W*H` entries: no raster of the declared dimensions. -/
  | wrongPixelCount
  /-- The codeword part has not `W*H` bytes (R36). -/
  | wrongFileSize
deriving DecidableEq, Repr

/-- The dimensions are both even (R37). -/
def evenDimensions (width height : Nat) : Bool := width % 2 == 0 && height % 2 == 0

/-- The raster has even dimensions and as many pixels as they say. -/
def Raster.wellFormed (r : Raster) : Bool :=
  evenDimensions r.width r.height && r.pixels.length == r.width * r.height

/-- Pixel `(x, y)`, column `x` and row `y` (R37). The default pixel is never read of a well-formed raster (log entry 7). -/
def Raster.pixel (r : Raster) (x y : Nat) : Pixel := r.pixels.getD (y * r.width + x) ⟨0, 0, 0⟩

/-- Block `(i, j)`: `pixel(2i, 2j)`, `pixel(2i+1, 2j)`, `pixel(2i, 2j+1)`, `pixel(2i+1, 2j+1)` (R37). -/
def Raster.block (r : Raster) (i j : Nat) : Block :=
  { p0 := r.pixel (2 * i) (2 * j)
    p1 := r.pixel (2 * i + 1) (2 * j)
    p2 := r.pixel (2 * i) (2 * j + 1)
    p3 := r.pixel (2 * i + 1) (2 * j + 1) }

/-- The number of codewords of a `W`×`H` image (R36). -/
def codewordCount (width height : Nat) : Nat := (width / 2) * (height / 2)

/-- The blocks in stream order: block number `k` is block `(k mod (W/2), k div (W/2))` (R37, R38). -/
def Raster.blocks (r : Raster) : List Block :=
  (List.range (codewordCount r.width r.height)).map fun k => r.block (k % (r.width / 2)) (k / (r.width / 2))

/-- The pixel of a block at a column and row parity: the position order of R37. -/
def Block.pixelAt (k : Block) (odd_x odd_y : Bool) : Pixel :=
  match odd_y, odd_x with
  | false, false => k.p0
  | false, true => k.p1
  | true, false => k.p2
  | true, true => k.p3

/-- The pixel `(x, y)` of an image of width `W` from its blocks in stream order (R38): the same four positions. -/
def pixelOfBlocks (width : Nat) (blocks : List Block) (x y : Nat) : Pixel :=
  ((blocks[(y / 2) * (width / 2) + x / 2]?).getD ⟨⟨0, 0, 0⟩, ⟨0, 0, 0⟩, ⟨0, 0, 0⟩, ⟨0, 0, 0⟩⟩).pixelAt
    (x % 2 == 1) (y % 2 == 1)

/-- The raster whose blocks in stream order are `blocks` (R38). -/
def rasterOfBlocks (width height : Nat) (blocks : List Block) : Raster :=
  { width := width
    height := height
    pixels := (List.range (width * height)).map fun n => pixelOfBlocks width blocks (n % width) (n / width) }

/-- The four bytes of a codeword, big-endian (R35, D13). -/
def codewordBytes (w : Codeword) : List Byte :=
  [w.extractLsb' 24 8, w.extractLsb' 16 8, w.extractLsb' 8 8, w.extractLsb' 0 8]

/-- The codewords of a byte stream, `byte0 ‖ byte1 ‖ byte2 ‖ byte3` each (R35); a last part of fewer than four bytes is no
codeword. -/
def codewordsOfBytes : List Byte → List Codeword
  | b0 :: b1 :: b2 :: b3 :: rest => (b0 ++ b1 ++ b2 ++ b3) :: codewordsOfBytes rest
  | _ => []

/-- The command that compresses a block. -/
def Block.encCommand (k : Block) : Instr := .enc k.p0 k.p1 k.p2 k.p3

/-- The command that decodes a codeword (R51: the ignored bits are written as zeros). -/
def decCommand (w : Codeword) : Instr := .dec 0 w

/-- The commands of a whole-image compression, in raster block order (R37, R139). -/
def compressCommands (r : Raster) : Except HostError (List Instr) :=
  if evenDimensions r.width r.height then
    if r.pixels.length = r.width * r.height then .ok (r.blocks.map Block.encCommand)
    else .error .wrongPixelCount
  else .error .oddDimensions

/-- The commands of a whole-image decompression, in stream order (R38, R139). -/
def decompressCommands (width height : Nat) (bytes : List Byte) : Except HostError (List Instr) :=
  if evenDimensions width height then
    if bytes.length = width * height then .ok ((codewordsOfBytes bytes).map decCommand)
    else .error .wrongFileSize
  else .error .oddDimensions

/-- The codeword of an `ENC` response, `RSP[31:0]` (R45). -/
def Response.codeword (r : Response) : Codeword := r.data.extractLsb' 0 32

/-- The pixels of a `DEC` response (R45). -/
def Response.block (r : Response) : Block := Block.ofPayload r.data

/-- What the host writes after a whole-image compression: the codewords in the order received, big-endian (R35, R139). -/
def containerOfResponses (rs : List Response) : List Byte := (rs.map fun r => codewordBytes r.codeword).flatten

/-- What the host builds after a whole-image decompression (R38, R139). -/
def rasterOfResponses (width height : Nat) (rs : List Response) : Raster :=
  rasterOfBlocks width height (rs.map Response.block)

/-- Whole-image compression: the codeword part of the container (R36, R37). -/
def compress (cfg : Config) (r : Raster) : Except HostError (List Byte) :=
  (compressCommands r).map fun cs => containerOfResponses (cs.map (commandResponse cfg))

/-- Whole-image decompression (R38). -/
def decompress (cfg : Config) (width height : Nat) (bytes : List Byte) : Except HostError Raster :=
  (decompressCommands width height bytes).map fun cs =>
    rasterOfResponses width height (cs.map (commandResponse cfg))

/-- The edges at which a host that always takes responses presents the commands one after the other, and one last edge at which
it takes the last response (R158, R159). -/
def feed (cs : List Instr) : List Ports := cs.map (fun i => Ports.presenting (encode i)) ++ [Ports.taking]

end Sys2Proof.Machine
end

