-- ==== Sys2Proof/Safety.lean ====
section
/-! DEFINITION. What claims about runs are stated in: the transfers of a run (00 glossary: "a rising clock edge at which a
channel's valid and ready are both 1 and rst is 0"), the safe run, and the host's duties as premises (R139, R153). Claims are
over transfers, not over cycle numbers (R159). -/

namespace Sys2Proof.Machine

/-- What a run of some edges did: the commands accepted and the responses delivered, in order, how many edges had
`rst = 1`, and the state at the end. -/
structure Trace where
  accepted : List Instr
  delivered : List Response
  resets : Nat
  final : State
deriving DecidableEq, Repr

/-- The trace of `n` edges from a state; it ends early where a step stops. -/
def trace : Nat → State → Trace
  | 0, s => ⟨[], [], 0, s⟩
  | n + 1, s =>
    match step s with
    | .next t =>
      let r := trace n t
      { accepted := if s.accept then s.command :: r.accepted else r.accepted
        delivered := if s.deliver then s.response :: r.delivered else r.delivered
        resets := s.ports.rst.toNat + r.resets
        final := r.final }
    | .fault _ => ⟨[], [], 0, s⟩
    | .refused _ => ⟨[], [], 0, s⟩

/-- A safe run: `n` edges with no fault and no refusal (R130). -/
def RunsSafely : Nat → State → Prop
  | 0, _ => True
  | n + 1, s => ∃ t, step s = .next t ∧ RunsSafely n t

/-- The host's duty of R153 on the two edges `p`, then `q`: a command presented and not taken at `p` is still presented,
unchanged, at `q`. `ready` is `cmd_ready` at `p`. -/
def keepsCommand (ready : Bool) (p q : Ports) : Bool :=
  !(p.cmdValid && !ready) || (q.cmdValid && q.cmdOp == p.cmdOp && q.cmdData == p.cmdData)

/-- The host keeps commands stable (R153) over the next `n` edges and the one after them. A premise about the host, never a
check of the block (U13). -/
def HostStable : Nat → State → Prop
  | 0, _ => True
  | n + 1, s => keepsCommand s.cmdReady s.ports s.advance.ports = true ∧ ∀ t, step s = .next t → HostStable n t

/-- The content of the result register is that of a response (R45), whether valid or stale: an op bit of 0 goes with a payload
whose upper 64 bits are zero and whose low 32 bits hold no reserved field (R49). -/
def State.RegisterFormed (s : State) : Prop :=
  s.rspOp = 0 →
    s.rspData.extractLsb' 32 64 = 0 ∧
      (unpack (s.rspData.extractLsb' 0 32)).b ≠ 16 ∧
      (unpack (s.rspData.extractLsb' 0 32)).c ≠ 16 ∧
      (unpack (s.rspData.extractLsb' 0 32)).d ≠ 16

/-- A response that is held is the response of some command (R10, R115). -/
def State.HoldsResponse (s : State) : Prop :=
  s.rspValid = true → ∃ i : Instr, s.response = commandResponse defaults i

/-- The two together: the invariant every edge keeps. -/
def State.Inv (s : State) : Prop := s.RegisterFormed ∧ s.HoldsResponse

end Sys2Proof.Machine
end

