-- ==== Sys2Proof/Certificates/Slice0/Obligations.lean ====
section
/-! DEFINITION. The statements for the provers, rule by rule of spec/. Each docstring names the rule it formalises. -/

open Sys2Proof Sys2Proof.Machine

/-! ### Encodings (30, 44) -/

/-- R41 to R45: no bit of the encoding of a command is dropped. -/
def Obligations.DecodeOfEncodeIsTheCommand : Prop :=
  ∀ i : Instr, decode (encode i) = i

/-- R50: every command word is the word of the command it decodes to, so none is illegal and none has two readings. -/
def Obligations.EncodeOfDecodeIsTheWord : Prop :=
  ∀ c : CommandWord, encode (decode c) = c

/-- R41, R42, R43: bit 96 selects the command, and the samples of an `ENC` stand at the bits the table gives. -/
def Obligations.EncWordFieldPositions : Prop :=
  ∀ c : CommandWord,
    (c.getLsbD 96 = true → ∃ u w, decode c = .dec u w) ∧
    (c.getLsbD 96 = false → decode c = .enc
      ⟨BitVec.ofNat 8 (c.toNat / 2 ^ 88), BitVec.ofNat 8 (c.toNat / 2 ^ 80), BitVec.ofNat 8 (c.toNat / 2 ^ 72)⟩
      ⟨BitVec.ofNat 8 (c.toNat / 2 ^ 64), BitVec.ofNat 8 (c.toNat / 2 ^ 56), BitVec.ofNat 8 (c.toNat / 2 ^ 48)⟩
      ⟨BitVec.ofNat 8 (c.toNat / 2 ^ 40), BitVec.ofNat 8 (c.toNat / 2 ^ 32), BitVec.ofNat 8 (c.toNat / 2 ^ 24)⟩
      ⟨BitVec.ofNat 8 (c.toNat / 2 ^ 16), BitVec.ofNat 8 (c.toNat / 2 ^ 8), BitVec.ofNat 8 c.toNat⟩)

/-- R44: the codeword of a `DEC` is in its low 32 bits, with the six fields at the bits the table gives, and any value of the
upper 64 payload bits gives the same response. -/
def Obligations.DecWordFieldPositionsAndIgnoredBits : Prop :=
  (∀ c : CommandWord, c.getLsbD 96 = true → ∃ u w, decode c = .dec u w ∧ w = BitVec.ofNat 32 c.toNat ∧
    (unpack w).a.toNat = c.toNat / 2 ^ 23 % 2 ^ 9 ∧ (unpack w).b.toNat = c.toNat / 2 ^ 18 % 2 ^ 5 ∧
    (unpack w).c.toNat = c.toNat / 2 ^ 13 % 2 ^ 5 ∧ (unpack w).d.toNat = c.toNat / 2 ^ 8 % 2 ^ 5 ∧
    (unpack w).pb.toNat = c.toNat / 2 ^ 4 % 2 ^ 4 ∧ (unpack w).pr.toNat = c.toNat % 2 ^ 4) ∧
  (∀ (cfg : Config) (d d' : Payload), d.extractLsb' 0 32 = d'.extractLsb' 0 32 →
    execPayload cfg 1 d = execPayload cfg 1 d') ∧
  ∀ (u u' : BitVec 64) (w : Codeword) (s : State), exec (.dec u w) s = exec (.dec u' w) s

/-- 30 section 5, R41: of the rows of the opcode table exactly one selects a command word, and it is the row of the command
the word decodes to. -/
def Obligations.OneOpcodeRowSelectsEachWord : Prop :=
  ∀ (c : CommandWord) (row : OpcodeRow), row ∈ opcodeTable → (row.selects c = true ↔ row = (decode c).row)

/-- Words written out bit by bit from R43 and R44 (the two commands of program P1, the `DEC` with all ignored bits set) decode
to the commands they stand for. -/
def Obligations.WrittenOutWordsDecode : Prop :=
  decode (0x00A141E28323C46505A646E78#97) = .enc ⟨10, 20, 30⟩ ⟨40, 50, 60⟩ ⟨70, 80, 90⟩ ⟨100, 110, 120⟩ ∧
  decode (0x100000000000000003F986096#97) = .dec 0 0x3F986096#32 ∧
  decode (0x1FFFFFFFFFFFFFFFF3F986096#97) = .dec 0xFFFFFFFFFFFFFFFF#64 0x3F986096#32

/-- R52: what the two shorthand forms expand to, with the codeword of `DECF` as the rule's arithmetic. -/
def Obligations.ShorthandsExpand : Prop :=
  (∀ v0 v1 v2 v3 : Sample, (Shorthand.encg v0 v1 v2 v3).expand =
    some (.enc ⟨v0, v0, v0⟩ ⟨v1, v1, v1⟩ ⟨v2, v2, v2⟩ ⟨v3, v3, v3⟩)) ∧
  ∀ a b c d pb pr : Int, 0 ≤ a → a ≤ 511 → -16 ≤ b → b ≤ 15 → -16 ≤ c → c ≤ 15 → -16 ≤ d → d ≤ 15 →
    0 ≤ pb → pb ≤ 15 → 0 ≤ pr → pr ≤ 15 →
    ∃ w : Codeword, (Shorthand.decf a b c d pb pr).expand = some (.dec 0 w) ∧
      (w.toNat : Int) = a * 2 ^ 23 + (b % 32) * 2 ^ 18 + (c % 32) * 2 ^ 13 + (d % 32) * 2 ^ 8 + pb * 16 + pr ∧
      (unpack w).toInts = (a, b, c, d, pb, pr)

/-- R47, R48: the encodings of unsigned and of signed fields, and their readings. -/
def Obligations.FieldEncodings : Prop :=
  (∀ (n : Nat) (v : Int), 0 ≤ v → v < 2 ^ n → ((trunc n v).toNat : Int) = v ∧ zext (trunc n v) = v) ∧
  ∀ v : Int, -16 ≤ v → v ≤ 15 →
    sext5 (trunc 5 v) = v ∧ (0 ≤ v → ((trunc 5 v).toNat : Int) = v) ∧ (v < 0 → ((trunc 5 v).toNat : Int) = v + 32)

/-- R100: the codeword as the rule's arithmetic on the six integers, over the whole operand ranges. -/
def Obligations.PackIsTheSumOfShiftedFields : Prop :=
  ∀ a b c d pb pr : Int, 0 ≤ a → a ≤ 511 → -16 ≤ b → b ≤ 15 → -16 ≤ c → c ≤ 15 → -16 ≤ d → d ≤ 15 →
    0 ≤ pb → pb ≤ 15 → 0 ≤ pr → pr ≤ 15 →
    ((pack (Fields.ofInts a b c d pb pr)).toNat : Int) =
      a * 2 ^ 23 + (b % 32) * 2 ^ 18 + (c % 32) * 2 ^ 13 + (d % 32) * 2 ^ 8 + pb * 2 ^ 4 + pr

/-- R101: each of the six integers of a codeword, from its bits by offset and width, the signed ones by sign extension. -/
def Obligations.UnpackReadsEachField : Prop :=
  ∀ w : Codeword,
    let f := (unpack w).toInts
    let signed (v : Nat) : Int := if v < 16 then (v : Int) else (v : Int) - 32
    f.1 = (w.toNat / 2 ^ 23 : Nat) ∧
    f.2.1 = signed (w.toNat / 2 ^ 18 % 32) ∧
    f.2.2.1 = signed (w.toNat / 2 ^ 13 % 32) ∧
    f.2.2.2.1 = signed (w.toNat / 2 ^ 8 % 32) ∧
    f.2.2.2.2.1 = (w.toNat / 2 ^ 4 % 16 : Nat) ∧
    f.2.2.2.2.2 = (w.toNat % 16 : Nat)

/-- R102 (marked [derived]): `pack` and `unpack` are mutually inverse, on the six integers and on every word. -/
def Obligations.PackAndUnpackAreInverse : Prop :=
  (∀ a b c d pb pr : Int, 0 ≤ a → a ≤ 511 → -16 ≤ b → b ≤ 15 → -16 ≤ c → c ≤ 15 → -16 ≤ d → d ≤ 15 →
    0 ≤ pb → pb ≤ 15 → 0 ≤ pr → pr ≤ 15 →
    (unpack (pack (Fields.ofInts a b c d pb pr))).toInts = (a, b, c, d, pb, pr)) ∧
  (∀ f : Fields, unpack (pack f) = f) ∧
  ∀ w : Codeword, pack (unpack w) = w

/-! ### Primitives (00) -/

/-- R8: the three cases of `clamp`. And the consequence of R8 and R9 that 00 section 5 draws and marks [derived: from rule R8 and
rule R9]: clamping before scaling and rounding, or after, is the same. -/
def Obligations.ClampSaturatesAndCommutesWithRounding : Prop :=
  (∀ x lo hi : Rat, lo ≤ hi →
    (x < lo → clamp x lo hi = lo) ∧ (hi < x → clamp x lo hi = hi) ∧ (lo ≤ x → x ≤ hi → clamp x lo hi = x)) ∧
  ∀ (x s : Rat) (lo hi : Int), lo ≤ hi → 0 < s →
    roundAway (clamp x (lo / s) (hi / s) * s) = clamp (roundAway (x * s)) lo hi

/-- R9: nearest integer, half-way cases away from zero, odd, non-decreasing, integers fixed. -/
def Obligations.RoundIsNearestTiesAwayFromZero : Prop :=
  (∀ q : Rat, |(roundAway q : Rat) - q| ≤ 1 / 2) ∧
  (∀ q : Rat, |(roundAway q : Rat) - q| = 1 / 2 → |q| < |(roundAway q : Rat)|) ∧
  (∀ q : Rat, 0 ≤ q → roundAway q = ⌊q + 1 / 2⌋) ∧
  (∀ q : Rat, q < 0 → roundAway q = -⌊-q + 1 / 2⌋) ∧
  (∀ q : Rat, roundAway (-q) = -roundAway q) ∧
  (∀ p q : Rat, p ≤ q → roundAway p ≤ roundAway q) ∧
  ∀ n : Int, roundAway (n : Rat) = n

/-! ### Color Space Converter (40) -/

/-- R60 and R6: for every table that meets R6, luma lies in [0,1] and chroma in [-1/2, 1/2], and a grey has no chroma,
exactly. -/
def Obligations.CscFwdRangeAndGreys : Prop :=
  ∀ cfg : Config, cfg.Valid →
    (∀ p : Pixel,
      0 ≤ (cscFwd cfg p).y ∧ (cscFwd cfg p).y ≤ 1 ∧ |(cscFwd cfg p).cb| ≤ 1 / 2 ∧ |(cscFwd cfg p).cr| ≤ 1 / 2) ∧
    ∀ v : Sample, cscFwd cfg ⟨v, v, v⟩ = ⟨(v.toNat : Rat) / 255, 0, 0⟩

/-- R62 (a rule the spec marks [derived]): the integer form of `csc_fwd` for the default table, its ranges, and
pixels at which the extremes are reached. -/
def Obligations.CscFwdIntegerForm : Prop :=
  (∀ p : Pixel,
    (cscFwd defaults p).y = (lumaNum p : Rat) / 255000 ∧
    (cscFwd defaults p).cb = (cbNum p : Rat) / 255000000 ∧
    (cscFwd defaults p).cr = (crNum p : Rat) / 255000000 ∧
    0 ≤ lumaNum p ∧ lumaNum p ≤ 255000 ∧ |cbNum p| ≤ 127500000 ∧ |crNum p| ≤ 127500000) ∧
  lumaNum ⟨255, 255, 255⟩ = 255000 ∧
  cbNum ⟨0, 0, 255⟩ = 127500000 ∧ cbNum ⟨255, 255, 0⟩ = -127500000 ∧
  crNum ⟨255, 0, 0⟩ = 127500000 ∧ crNum ⟨0, 255, 255⟩ = -127500000

/-- R63: each channel is the rounded and clamped real value, for rationals of any magnitude and any table, and clamping
before or after rounding gives the same. -/
def Obligations.CscInvRoundsThenClamps : Prop :=
  ∀ (cfg : Config) (y cb cr : Rat),
    let rr := 255 * (cfg.invMatrix.row0.x * y + cfg.invMatrix.row0.y * cb + cfg.invMatrix.row0.z * cr)
    let gg := 255 * (cfg.invMatrix.row1.x * y + cfg.invMatrix.row1.y * cb + cfg.invMatrix.row1.z * cr)
    let bb := 255 * (cfg.invMatrix.row2.x * y + cfg.invMatrix.row2.y * cb + cfg.invMatrix.row2.z * cr)
    zext (cscInv cfg ⟨y, cb, cr⟩).r = clamp (roundAway rr) 0 255 ∧
    zext (cscInv cfg ⟨y, cb, cr⟩).g = clamp (roundAway gg) 0 255 ∧
    zext (cscInv cfg ⟨y, cb, cr⟩).b = clamp (roundAway bb) 0 255 ∧
    ∀ v : Rat, clamp (roundAway v) 0 255 = roundAway (clamp v 0 255)

/-- R66 (marked [derived]): the integer form of `csc_inv` inside `DEC`, and the ranges of its numerators over all codewords. -/
def Obligations.CscInvIntegerForm : Prop :=
  (∀ ln pbk prk : Int,
    cscInv defaults ⟨(ln : Rat) / 25550, (pbk : Rat) / 1000, (prk : Rat) / 1000⟩ = pixelNum ln pbk prk) ∧
  ∀ (f : Fields) (l : Int) (i j : Fin 16),
    l ∈ [(lumaNums f).l0, (lumaNums f).l1, (lumaNums f).l2, (lumaNums f).l3] →
    -181215163500 ≤ rNum l kTable[j] ∧ rNum l kTable[j] ≤ 311520163500 ∧
    -165538846536000 ≤ gNum l kTable[i] kTable[j] ∧ gNum l kTable[i] kTable[j] ≤ 295843846536000 ∧
    -198089661000 ≤ bNum l kTable[i] ∧ bNum l kTable[i] ≤ 328394661000

/-- R65 (marked [derived]): the product of the default pair, the deviation it leaves in each channel, and the
round trip of every pixel. -/
def Obligations.DefaultColorRoundTrip : Prop :=
  defaults.invMatrix.mul defaults.fwdMatrix =
    ⟨⟨1, -9 / 15625000, 9 / 15625000⟩,
     ⟨129 / 976562500, 1953125081 / 1953125000, -339 / 1953125000⟩,
     ⟨-3 / 15625000, 3 / 15625000, 1⟩⟩ ∧
  (∀ p : Pixel,
    let v := cscFwd defaults p
    |255 * defaults.invMatrix.row0.dot v.y v.cb v.cr - p.r.toNat| < 1 / 2000 ∧
    |255 * defaults.invMatrix.row1.dot v.y v.cb v.cr - p.g.toNat| < 1 / 2000 ∧
    |255 * defaults.invMatrix.row2.dot v.y v.cb v.cr - p.b.toNat| < 1 / 2000) ∧
  ∀ p : Pixel, cscInv defaults (cscFwd defaults p) = p

/-! ### Block transform (41) -/

/-- R72 (marked [derived]): each of the two transforms inverts the other, for all rationals. -/
def Obligations.TransformsAreInverse : Prop :=
  (∀ y : Lumas, btInv (btFwd y) = y) ∧ ∀ k : Coeffs, btFwd (btInv k) = k

/-- R70, ranges and the flat block: with lumas in [0,1], `a` lies in [0,1] and `b`, `c`, `d` in [-1/2, 1/2]; four equal lumas
give `(v, 0, 0, 0)`. -/
def Obligations.BtFwdRanges : Prop :=
  (∀ y : Lumas, 0 ≤ y.y0 → y.y0 ≤ 1 → 0 ≤ y.y1 → y.y1 ≤ 1 → 0 ≤ y.y2 → y.y2 ≤ 1 → 0 ≤ y.y3 → y.y3 ≤ 1 →
    0 ≤ (btFwd y).a ∧ (btFwd y).a ≤ 1 ∧ |(btFwd y).b| ≤ 1 / 2 ∧ |(btFwd y).c| ≤ 1 / 2 ∧ |(btFwd y).d| ≤ 1 / 2) ∧
  ∀ v : Rat, btFwd ⟨v, v, v, v⟩ = ⟨v, 0, 0, 0⟩

/-- R73: the lumas reconstructed in `DEC` lie in [-9/10, 19/10], and are not clamped: both bounds are reached. -/
def Obligations.DecLumaRange : Prop :=
  (∀ f : Fields,
    (-(9 / 10) ≤ (decLumas f).y0 ∧ (decLumas f).y0 ≤ 19 / 10) ∧
    (-(9 / 10) ≤ (decLumas f).y1 ∧ (decLumas f).y1 ≤ 19 / 10) ∧
    (-(9 / 10) ≤ (decLumas f).y2 ∧ (decLumas f).y2 ≤ 19 / 10) ∧
    (-(9 / 10) ≤ (decLumas f).y3 ∧ (decLumas f).y3 ≤ 19 / 10)) ∧
  (decLumas (unpack 0xFFBDEF88#32)).y3 = 19 / 10 ∧ (decLumas (unpack 0x00421088#32)).y3 = -(9 / 10)

/-- R74 (marked [derived]): the integer forms of the two transforms, with their ranges. -/
def Obligations.TransformIntegerForms : Prop :=
  (∀ y0 y1 y2 y3 : Int,
    btFwd ⟨(y0 : Rat) / 255000, (y1 : Rat) / 255000, (y2 : Rat) / 255000, (y3 : Rat) / 255000⟩ =
      ⟨((coeffNums y0 y1 y2 y3).an : Rat) / 1020000, ((coeffNums y0 y1 y2 y3).bn : Rat) / 1020000,
       ((coeffNums y0 y1 y2 y3).cn : Rat) / 1020000, ((coeffNums y0 y1 y2 y3).dn : Rat) / 1020000⟩) ∧
  (∀ k : Block,
    let t := coeffNums (lumaNum k.p0) (lumaNum k.p1) (lumaNum k.p2) (lumaNum k.p3)
    0 ≤ t.an ∧ t.an ≤ 1020000 ∧ |t.bn| ≤ 510000 ∧ |t.cn| ≤ 510000 ∧ |t.dn| ≤ 510000) ∧
  ∀ f : Fields,
    decLumas f = ⟨((lumaNums f).l0 : Rat) / 25550, ((lumaNums f).l1 : Rat) / 25550,
      ((lumaNums f).l2 : Rat) / 25550, ((lumaNums f).l3 : Rat) / 25550⟩ ∧
    ∀ l : Int, l ∈ [(lumaNums f).l0, (lumaNums f).l1, (lumaNums f).l2, (lumaNums f).l3] → -22995 ≤ l ∧ l ≤ 48545

/-! ### Coefficient quantizer (42) -/

/-- R80, R81: the equivalent forms of `q_dc` and `q_ac`, their ranges (never -16) and the symmetry of `q_ac`, on every
rational. -/
def Obligations.QuantizersRoundThenClamp : Prop :=
  (∀ a : Rat, qDc a = roundAway (clamp a 0 1 * 511) ∧ qDc a = clamp (roundAway (511 * a)) 0 511 ∧
    0 ≤ qDc a ∧ qDc a ≤ 511) ∧
  ∀ x : Rat, qAc x = roundAway (clamp x (-(3 / 10)) (3 / 10) * 50) ∧ qAc x = clamp (roundAway (50 * x)) (-15) 15 ∧
    -15 ≤ qAc x ∧ qAc x ≤ 15 ∧ qAc (-x) = -qAc x

/-- R82, R83: the inverse quantizers on every field value; -16 decodes like -15. -/
def Obligations.DequantizersOnFieldValues : Prop :=
  (∀ a : Int, 0 ≤ a → a ≤ 511 → dqDc a = (a : Rat) / 511 ∧ 0 ≤ dqDc a ∧ dqDc a ≤ 1) ∧
  (∀ x : Int, -16 ≤ x → x ≤ 15 →
    dqAc x = (clamp x (-15) 15 : Int) / 50 ∧ -(3 / 10) ≤ dqAc x ∧ dqAc x ≤ 3 / 10) ∧
  dqAc (-16) = -(3 / 10) ∧ dqAc (-15) = -(3 / 10)

/-- R84 (marked [derived]): the error of quantizing and dequantizing, and exactness on values already on the grid. -/
def Obligations.QuantizerErrorBounds : Prop :=
  (∀ a : Rat, 0 ≤ a → a ≤ 1 → |dqDc (qDc a) - a| ≤ 1 / 1022) ∧
  (∀ x : Rat, |x| ≤ 3 / 10 → |dqAc (qAc x) - x| ≤ 1 / 100) ∧
  (∀ x : Rat, 3 / 10 < |x| → |dqAc (qAc x) - x| = |x| - 3 / 10) ∧
  (∀ n : Int, 0 ≤ n → n ≤ 511 → qDc (dqDc n) = n) ∧
  (∀ n : Int, -15 ≤ n → n ≤ 15 → qAc (dqAc n) = n) ∧
  qAc (dqAc (-16)) = -15

/-- R86 (marked [derived]): the integer forms of the quantizers, and the one numerator at which `a'` is a tie. -/
def Obligations.QuantizerIntegerForms : Prop :=
  (∀ an : Int, 0 ≤ an → an ≤ 1020000 →
    qDc ((an : Rat) / 1020000) = qDcNum an ∧ ((511 * an) % 1020000 = 510000 ↔ an = 510000)) ∧
  (∀ xn : Int, qAc ((xn : Rat) / 1020000) = qAcNum xn) ∧
  (∀ f : Fields, dqDc (zext f.a) = (zext f.a : Rat) / 511) ∧
  ∀ v : BitVec 5, dqAc (sext5 v) = (clamp (sext5 v) (-15) 15 : Int) / 50

/-! ### Chroma quantizer (43) -/

/-- R90: the mean of four values of [-1/2, 1/2] is exact and lies there again; four equal values give that value. -/
def Obligations.ChromaMeanInRange : Prop :=
  (∀ v0 v1 v2 v3 : Rat, 4 * chromaMean v0 v1 v2 v3 = v0 + v1 + v2 + v3) ∧
  (∀ v0 v1 v2 v3 : Rat, |v0| ≤ 1 / 2 → |v1| ≤ 1 / 2 → |v2| ≤ 1 / 2 → |v3| ≤ 1 / 2 →
    |chromaMean v0 v1 v2 v3| ≤ 1 / 2) ∧
  ∀ v : Rat, chromaMean v v v v = v

/-- R92: for every table, the index is that of a nearest entry to the clamped value, and the lowest such index. For a strictly
increasing table it is the number of midpoints strictly below the clamped value, and it does not decrease as the value grows. -/
def Obligations.IndexIsLowestNearestAndCountsMidpoints : Prop :=
  (∀ (cfg : Config) (x : Rat) (j : Fin 16),
    let xc := clamp x (-(1 / 2)) (1 / 2)
    |xc - cfg.chromaLut[indexOfChroma cfg x]| ≤ |xc - cfg.chromaLut[j]| ∧
    (j < indexOfChroma cfg x → |xc - cfg.chromaLut[indexOfChroma cfg x]| < |xc - cfg.chromaLut[j]|)) ∧
  ∀ cfg : Config, (∀ i j : Fin 16, i < j → cfg.chromaLut[i] < cfg.chromaLut[j]) →
    (∀ x : Rat, (indexOfChroma cfg x).val =
      ((List.finRange 15).filter fun j =>
        (cfg.chromaLut[j.castSucc] + cfg.chromaLut[j.succ]) / 2 < clamp x (-(1 / 2)) (1 / 2)).length) ∧
    ∀ x x' : Rat, x ≤ x' → indexOfChroma cfg x ≤ indexOfChroma cfg x'

/-- R94 (marked [derived]): an entry's own index is given back, for every table that meets R6; and
the error bounds of the default table. -/
def Obligations.ChromaGridAndErrors : Prop :=
  (∀ cfg : Config, cfg.LutValid → ∀ i : Fin 16, indexOfChroma cfg (chromaOfIndex cfg i) = i) ∧
  (∀ x : Rat, |x| ≤ 22 / 1000 → |chromaOfIndex defaults (indexOfChroma defaults x) - x| ≤ 11 / 1000) ∧
  (∀ x : Rat, |x| ≤ 35 / 100 → |chromaOfIndex defaults (indexOfChroma defaults x) - x| ≤ 75 / 1000) ∧
  ∀ x : Rat, 35 / 100 < |x| → |chromaOfIndex defaults (indexOfChroma defaults x) - x| = |x| - 35 / 100

/-- R95 (marked [derived]): the integer form of the chroma quantizer: thresholds below the sum, strictly; the table entries in
`DEC`; and the range of the sums. -/
def Obligations.ChromaIntegerForm : Prop :=
  (∀ s : Int, (indexOfChroma defaults ((s : Rat) / 1020000000)).val = chromaIndexNum s) ∧
  ((List.finRange 15).map threshold = [-280500000, -178500000, -127500000, -90270000, -67320000, -44880000, -22440000, 0,
    22440000, 44880000, 67320000, 90270000, 127500000, 178500000, 280500000]) ∧
  chromaIndexNum 0 = 7 ∧
  (∀ i : Fin 16, chromaOfIndex defaults i = (kTable[i] : Rat) / 1000) ∧
  ∀ k : Block,
    chromaMean (cscFwd defaults k.p0).cb (cscFwd defaults k.p1).cb (cscFwd defaults k.p2).cb (cscFwd defaults k.p3).cb =
      ((cbNum k.p0 + cbNum k.p1 + cbNum k.p2 + cbNum k.p3 : Int) : Rat) / 1020000000 ∧
    chromaMean (cscFwd defaults k.p0).cr (cscFwd defaults k.p1).cr (cscFwd defaults k.p2).cr (cscFwd defaults k.p3).cr =
      ((crNum k.p0 + crNum k.p1 + crNum k.p2 + crNum k.p3 : Int) : Rat) / 1020000000 ∧
    |cbNum k.p0 + cbNum k.p1 + cbNum k.p2 + cbNum k.p3| ≤ 510000000 ∧
    |crNum k.p0 + crNum k.p1 + crNum k.p2 + crNum k.p3| ≤ 510000000

/-! ### The two commands (45) -/

/-- R114 (marked [derived]): the quantized values fit their fields, for every rational operand and every table: the
encoding loses nothing. -/
def Obligations.QuantizedValuesFitTheirFields : Prop :=
  ∀ (cfg : Config) (q : Rat),
    zext (trunc 9 (qDc q)) = qDc q ∧ sext5 (trunc 5 (qAc q)) = qAc q ∧
    zext (trunc 4 ((indexOfChroma cfg q).val : Int)) = (indexOfChroma cfg q).val

/-- R110: the six integers in the codeword of a block are the quantized coefficients of its lumas and the indices of its mean
chroma, for every table. -/
def Obligations.EncFieldsAreTheQuantizedValues : Prop :=
  ∀ (cfg : Config) (p0 p1 p2 p3 : Pixel),
    let v0 := cscFwd cfg p0
    let v1 := cscFwd cfg p1
    let v2 := cscFwd cfg p2
    let v3 := cscFwd cfg p3
    (unpack (encBlock cfg ⟨p0, p1, p2, p3⟩)).toInts =
      (qDc ((v0.y + v1.y + v2.y + v3.y) / 4), qAc ((v3.y + v2.y - v1.y - v0.y) / 4),
       qAc ((v3.y - v2.y + v1.y - v0.y) / 4), qAc ((v3.y - v2.y - v1.y + v0.y) / 4),
       ((indexOfChroma cfg ((v0.cb + v1.cb + v2.cb + v3.cb) / 4)).val : Int),
       ((indexOfChroma cfg ((v0.cr + v1.cr + v2.cr + v3.cr) / 4)).val : Int))

/-- R111: the pixels of a codeword packed from six integers, with the inverse transform written out, for every table. -/
def Obligations.DecPixelsFromFieldValues : Prop :=
  ∀ (cfg : Config) (a b c d : Int) (pb pr : Fin 16),
    0 ≤ a → a ≤ 511 → -16 ≤ b → b ≤ 15 → -16 ≤ c → c ≤ 15 → -16 ≤ d → d ≤ 15 →
    let cb := chromaOfIndex cfg pb
    let cr := chromaOfIndex cfg pr
    decBlock cfg (pack (Fields.ofInts a b c d pb.val pr.val)) =
      ⟨cscInv cfg ⟨dqDc a - dqAc b - dqAc c + dqAc d, cb, cr⟩, cscInv cfg ⟨dqDc a - dqAc b + dqAc c - dqAc d, cb, cr⟩,
       cscInv cfg ⟨dqDc a + dqAc b - dqAc c - dqAc d, cb, cr⟩, cscInv cfg ⟨dqDc a + dqAc b + dqAc c + dqAc d, cb, cr⟩⟩

/-- R112 (marked [derived]): the integer realisation of `Enc` gives the same codeword, for every block. -/
def Obligations.EncIntegerRealisation : Prop :=
  ∀ k : Block, encBlock defaults k = encBlockNum k

/-- R113 (marked [derived]): the integer realisation of `Dec` gives the same pixels, for every codeword. -/
def Obligations.DecIntegerRealisation : Prop :=
  ∀ w : Codeword, decBlock defaults w = decBlockNum w

/-- R49 (marked [derived]): the reserved pattern 10000 is never produced by `ENC`, and `DEC` reads it like 10001, in each of the
three signed fields, for every table. -/
def Obligations.ReservedFieldValue : Prop :=
  (∀ (cfg : Config) (k : Block),
    (unpack (encBlock cfg k)).b ≠ 16 ∧ (unpack (encBlock cfg k)).c ≠ 16 ∧ (unpack (encBlock cfg k)).d ≠ 16) ∧
  ∀ (cfg : Config) (f : Fields),
    decBlock cfg (pack { f with b := 16 }) = decBlock cfg (pack { f with b := 17 }) ∧
    decBlock cfg (pack { f with c := 16 }) = decBlock cfg (pack { f with c := 17 }) ∧
    decBlock cfg (pack { f with d := 16 }) = decBlock cfg (pack { f with d := 17 })

/-- R110 and R117, for every table: a flat block has `b' = c' = d' = 0`, and its four decoded pixels are equal. -/
def Obligations.FlatBlocks : Prop :=
  ∀ (cfg : Config) (p : Pixel),
    let w := encBlock cfg ⟨p, p, p, p⟩
    (unpack w).b = 0 ∧ (unpack w).c = 0 ∧ (unpack w).d = 0 ∧
    (decBlock cfg w).p1 = (decBlock cfg w).p0 ∧ (decBlock cfg w).p2 = (decBlock cfg w).p0 ∧
    (decBlock cfg w).p3 = (decBlock cfg w).p0

/-- R117, the greys, for the default tables: a flat grey block is coded with both chroma indices 7, and comes back within 5 in
each channel. -/
def Obligations.GreyBlocksComeBackWithinFive : Prop :=
  ∀ v : Sample,
    let w := encBlock defaults ⟨⟨v, v, v⟩, ⟨v, v, v⟩, ⟨v, v, v⟩, ⟨v, v, v⟩⟩
    let p := (decBlock defaults w).p0
    (unpack w).pb = 7 ∧ (unpack w).pr = 7 ∧
    |zext p.r - zext v| ≤ 5 ∧ |zext p.g - zext v| ≤ 5 ∧ |zext p.b - zext v| ≤ 5

/-- R110, R45, R5: in a build with any tables, and in the machine behind the fixed names, an accepted `ENC` completes in every
state, with its response in the register: valid, op 0, the codeword of the block in bits 31:0 and zeros above; the listed
edges are unchanged. The machine behind the fixed names is built with the default tables (log entry 4). -/
def Obligations.EncCompletes : Prop :=
  (∀ (p0 p1 p2 p3 : Pixel) (s : State),
    exec (.enc p0 p1 p2 p3) s =
      .next { rspValid := true, rspOp := 0, rspData := (0#64 ++ encBlock defaults ⟨p0, p1, p2, p3⟩ : BitVec 96),
              edges := s.edges }) ∧
  ∀ (cfg : Config) (p0 p1 p2 p3 : Pixel) (s : State),
    execWith cfg (.enc p0 p1 p2 p3) s =
      .next { rspValid := true, rspOp := 0, rspData := (0#64 ++ encBlock cfg ⟨p0, p1, p2, p3⟩ : BitVec 96),
              edges := s.edges }

/-- R111, R45, R5: in a build with any tables, and in the machine behind the fixed names, an accepted `DEC` completes in every
state, with its response in the register: valid, op 1, the four pixels `P0 ‖ P1 ‖ P2 ‖ P3`; the listed edges are unchanged.
The machine behind the fixed names is built with the default tables (log entry 4). -/
def Obligations.DecCompletes : Prop :=
  (∀ (u : BitVec 64) (w : Codeword) (s : State),
    let k := decBlock defaults w
    exec (.dec u w) s =
      .next { rspValid := true, rspOp := 1,
              rspData := (k.p0.r ++ k.p0.g ++ k.p0.b ++ (k.p1.r ++ k.p1.g ++ k.p1.b) ++ (k.p2.r ++ k.p2.g ++ k.p2.b) ++
                (k.p3.r ++ k.p3.g ++ k.p3.b) : BitVec 96),
              edges := s.edges }) ∧
  ∀ (cfg : Config) (u : BitVec 64) (w : Codeword) (s : State),
    let k := decBlock cfg w
    execWith cfg (.dec u w) s =
      .next { rspValid := true, rspOp := 1,
              rspData := (k.p0.r ++ k.p0.g ++ k.p0.b ++ (k.p1.r ++ k.p1.g ++ k.p1.b) ++ (k.p2.r ++ k.p2.g ++ k.p2.b) ++
                (k.p3.r ++ k.p3.g ++ k.p3.b) : BitVec 96),
              edges := s.edges }

/-- R45: the 97-bit response word, as numbers. Of an `ENC` it is the codeword: op 0 and zeros above. Of a `DEC` it is the op bit
and the twelve samples at the bits of the layout of R43. -/
def Obligations.ResponseWordLayout : Prop :=
  (∀ (cfg : Config) (p0 p1 p2 p3 : Pixel),
    (commandResponse cfg (.enc p0 p1 p2 p3)).word.toNat = (encBlock cfg ⟨p0, p1, p2, p3⟩).toNat) ∧
  ∀ (cfg : Config) (u : BitVec 64) (w : Codeword),
    let k := decBlock cfg w
    (commandResponse cfg (.dec u w)).word.toNat =
      2 ^ 96 + k.p0.r.toNat * 2 ^ 88 + k.p0.g.toNat * 2 ^ 80 + k.p0.b.toNat * 2 ^ 72 +
        k.p1.r.toNat * 2 ^ 64 + k.p1.g.toNat * 2 ^ 56 + k.p1.b.toNat * 2 ^ 48 +
        k.p2.r.toNat * 2 ^ 40 + k.p2.g.toNat * 2 ^ 32 + k.p2.b.toNat * 2 ^ 24 +
        k.p3.r.toNat * 2 ^ 16 + k.p3.g.toNat * 2 ^ 8 + k.p3.b.toNat

/-- R115: the response of a command depends on the command alone: two states, whatever they hold, end with the same register
content. -/
def Obligations.CommandsArePure : Prop :=
  ∀ (i : Instr) (s s' : State), ∃ t t' : State,
    exec i s = .next t ∧ exec i s' = .next t' ∧ t.rspValid = true ∧ t'.rspValid = true ∧ t.response = t'.response

/-- R116 (marked [derived]): `Exec` of the two op bits, with the pixels cut from the payload as the rule cuts them, for every
table; and that the accepted command word leaves exactly it in the register of the machine (built with the default tables, log
entry 4). -/
def Obligations.AcceptedWordStoresExec : Prop :=
  (∀ (cfg : Config) (d : Payload),
    execPayload cfg 0 d = (encBlock cfg
      ⟨⟨d.extractLsb' 88 8, d.extractLsb' 80 8, d.extractLsb' 72 8⟩, ⟨d.extractLsb' 64 8, d.extractLsb' 56 8, d.extractLsb' 48 8⟩,
       ⟨d.extractLsb' 40 8, d.extractLsb' 32 8, d.extractLsb' 24 8⟩,
       ⟨d.extractLsb' 16 8, d.extractLsb' 8 8, d.extractLsb' 0 8⟩⟩).setWidth 96) ∧
  (∀ (cfg : Config) (d : Payload),
    let k := decBlock cfg (d.extractLsb' 0 32)
    execPayload cfg 1 d = (k.p0.r ++ k.p0.g ++ k.p0.b ++ (k.p1.r ++ k.p1.g ++ k.p1.b) ++ (k.p2.r ++ k.p2.g ++ k.p2.b) ++
      (k.p3.r ++ k.p3.g ++ k.p3.b) : BitVec 96)) ∧
  ∀ (op : BitVec 1) (d : Payload) (s : State),
    exec (decode ((op ++ d : BitVec (1 + 96)).cast (by decide))) s =
      .next { s with rspValid := true, rspOp := op, rspData := execPayload defaults op d }

/-! ### The clocked step (10, 60, 70) -/

/-- R12, R13: the output ports as functions of the register, `rst` and `rsp_ready`. -/
def Obligations.OutputPorts : Prop :=
  ∀ (v : Bool) (op : BitVec 1) (d : Payload) (p : Ports) (rest : List Ports),
    (State.outputs ⟨v, op, d, p :: rest⟩) =
      { cmdReady := !p.rst && (!v || p.rspReady), rspValid := v && !p.rst, rspOp := op, rspData := d }

/-- R18, R150: a reset edge clears the register whatever it held (also before the first reset, R19) and whatever the other
inputs; nothing is ready or valid in that cycle. -/
def Obligations.ResetEdgeClearsTheRegister : Prop :=
  (∀ s : State, s.ports.rst = true →
    step s = .next { rspValid := false, rspOp := 0, rspData := 0, edges := s.edges.tail } ∧
    s.cmdReady = false ∧ s.rspValidOut = false) ∧
  ∀ (p : Ports) (rest : List Ports), p.rst = true →
    step (State.powerUp (p :: rest)) = .next { State.reset with edges := rest }

/-- R20, R5: the four cases of an edge of a build with any tables, with `accept` and `deliver` as the rule writes them; reset
wins, then accept. The machine behind the fixed names is the build with the default tables (log entry 4). -/
def Obligations.ClockedStep : Prop :=
  (∀ (cfg : Config) (v : Bool) (op : BitVec 1) (d : Payload) (p : Ports) (rest : List Ports),
    let accept := !p.rst && p.cmdValid && (!v || p.rspReady)
    let deliver := !p.rst && v && p.rspReady
    stepWith cfg ⟨v, op, d, p :: rest⟩ = .next
      (if p.rst then ⟨false, 0, 0, rest⟩
       else if accept then ⟨true, p.cmdOp, execPayload cfg p.cmdOp p.cmdData, rest⟩
       else if deliver then ⟨false, op, d, rest⟩
       else ⟨v, op, d, rest⟩)) ∧
  ∀ s : State, step s = stepWith defaults s

/-- R20, R40, R41: a step at which a command is accepted runs the command the presented word decodes to; and the next step after
`withFetchWord` runs the command of that word. What surrounds `exec` is the passing of one edge; that a host presents the word
is the model's form of a program (log entry 5). -/
def Obligations.StepRunsTheDecodedCommand : Prop :=
  (∀ s : State, s.accept = true → step s = exec (decode s.ports.command) { s with edges := s.edges.tail }) ∧
  ∀ (s : State) (nbits w : Nat) (i : Instr), w < 2 ^ 97 → decodeTableWord nbits w = some i →
    step (s.withFetchWord nbits w) = exec i { s with edges := s.edges.tail }

/-- R130: a run never stops: every step of every run answers a next state. -/
def Obligations.EveryRunIsSafe : Prop :=
  ∀ (n : Nat) (s : State), RunsSafely n s

/-- R20, R134: back-pressure. While the host takes nothing and does not reset, a held response stays as it is and no command
is accepted, for any number of edges. Beyond the listed edges the model has an idle host (log entry 2). -/
def Obligations.BackPressureHoldsTheResponse : Prop :=
  ∀ (n : Nat) (s : State), s.rspValid = true →
    (∀ j < n, (s.edges.getD j Ports.idle).rst = false ∧ (s.edges.getD j Ports.idle).rspReady = false) →
    (trace n s).accepted = [] ∧ (trace n s).delivered = [] ∧ (trace n s).final.held = s.held

/-- R45, R49, R10: what every edge keeps of the register: an op bit of 0 goes with a zero upper payload and no reserved field,
and a held response is the response of some command, by the default tables the machine is built with (log entry 4). -/
def Obligations.StepKeepsTheRegisterFormed : Prop :=
  ∀ s t : State, s.Inv → step s = .next t → t.Inv

/-- The state after reset meets the invariant. -/
def Obligations.ResetRegisterIsFormed : Prop := State.reset.Inv

/-- R21, R32: with no reset, the responses delivered, followed by the one still held, are those of the response held at the
start followed by the responses of the accepted commands, in order: each command yields exactly one response. The responses
are those of the default tables the machine is built with (log entry 4). -/
def Obligations.ResponsesInOrderOfAcceptance : Prop :=
  ∀ (n : Nat) (s : State), (trace n s).resets = 0 →
    s.held ++ (trace n s).accepted.map (commandResponse defaults) = (trace n s).delivered ++ (trace n s).final.held

/-- R152, R139: over any run, what is delivered and still held is, in order, a part of what was held and accepted, and each
reset edge loses at most one response. The responses are those of the default tables the machine is built with (log
entry 4). -/
def Obligations.EachResetLosesAtMostOneResponse : Prop :=
  ∀ (n : Nat) (s : State),
    ((trace n s).delivered ++ (trace n s).final.held).Sublist
      (s.held ++ (trace n s).accepted.map (commandResponse defaults)) ∧
    (s.held ++ (trace n s).accepted.map (commandResponse defaults)).length ≤
      ((trace n s).delivered ++ (trace n s).final.held).length + (trace n s).resets

/-- R153, R159: a command the host keeps stable is the first one accepted, by the edge at which the host raises `rsp_ready`, if no
reset intervenes. Beyond the listed edges the model has an idle host (log entry 2). -/
def Obligations.StableCommandIsAccepted : Prop :=
  ∀ (k : Nat) (s : State), s.ports.cmdValid = true → HostStable k s →
    (∀ j ≤ k, (s.edges.getD j Ports.idle).rst = false) → (s.edges.getD k Ports.idle).rspReady = true →
    (trace (k + 1) s).accepted.head? = some (decode s.ports.command)

/-- R158, R159, from any register content: commands presented at every edge to a host that always takes responses are accepted
one an edge; what was held and then all their responses are delivered, in order, each one edge after its acceptance. The
responses are those of the default tables the machine is built with (log entry 4). -/
def Obligations.OneCommandPerEdge : Prop :=
  ∀ (cs : List Instr) (s : State),
    let r := trace (cs.length + 1) { s with edges := feed cs }
    r.accepted = cs ∧ r.delivered = s.held ++ cs.map (commandResponse defaults) ∧ r.final.rspValid = false

/-! ### The codeword stream (20) -/

/-- R34, R35: a codeword is four bytes, most significant first, and the bytes of a list of codewords read back as that list. -/
def Obligations.CodewordBytesRoundTrip : Prop :=
  (∀ w : Codeword, (codewordBytes w).map BitVec.toNat =
    [w.toNat / 2 ^ 24, w.toNat / 2 ^ 16 % 256, w.toNat / 2 ^ 8 % 256, w.toNat % 256]) ∧
  ∀ ws : List Codeword, codewordsOfBytes ((ws.map codewordBytes).flatten) = ws

/-- R36, R37: the codeword part of a well-formed raster has `(W/2)*(H/2)` codewords, that is `W*H` bytes, and a raster of odd
dimensions is not compressed. -/
def Obligations.ContainerSize : Prop :=
  (∀ (cfg : Config) (r : Raster), r.wellFormed = true →
    ∃ bytes, compress cfg r = .ok bytes ∧ bytes.length = r.width * r.height ∧
      (codewordsOfBytes bytes).length = (r.width / 2) * (r.height / 2)) ∧
  ∀ (cfg : Config) (r : Raster), (r.width % 2 = 1 ∨ r.height % 2 = 1) → compress cfg r = .error .oddDimensions

/-- R37, R38: cutting a well-formed raster into blocks and placing the blocks by their numbers gives the raster back. -/
def Obligations.BlocksTileTheRaster : Prop :=
  ∀ r : Raster, r.wellFormed = true → rasterOfBlocks r.width r.height r.blocks = r

/-- R38, R35: decompressing what a well-formed raster compressed to, with the same tables (R157), gives a raster of the same
dimensions whose blocks are the decoded codewords of the original blocks. -/
def Obligations.DecompressOfCompress : Prop :=
  ∀ (cfg : Config) (r : Raster), r.wellFormed = true →
    ∃ bytes, compress cfg r = .ok bytes ∧
      decompress cfg r.width r.height bytes =
        .ok (rasterOfBlocks r.width r.height (r.blocks.map fun k => decBlock cfg (encBlock cfg k)))

/-- R139: the block, fed the commands of a whole-image compression, delivers the responses the container is written from: the
machine computes `compress`, with the default tables it is built with (log entry 4). -/
def Obligations.MachineCompressesTheImage : Prop :=
  ∀ (r : Raster) (cs : List Instr), compressCommands r = .ok cs →
    compress defaults r =
      .ok (containerOfResponses (trace (cs.length + 1) { State.reset with edges := feed cs }).delivered)
end

