-- ==== Sys2Proof/Laws/Arith.lean ====
section
/-! SUPPORT. What the arithmetic primitives answer, said once: `clamp` by its bounds, `roundAway` by the interval of values it
takes to an integer, the field readings by their ranges. -/

namespace Sys2Proof.Machine

variable {α : Type} [LinearOrder α] {x lo hi : α}

theorem le_clamp (h : lo ≤ hi) : lo ≤ clamp x lo hi := by
  unfold clamp
  split_ifs with h1 h2
  · exact le_rfl
  · exact h
  · exact not_lt.mp h1

theorem clamp_le (h : lo ≤ hi) : clamp x lo hi ≤ hi := by
  unfold clamp
  split_ifs with h1 h2
  · exact h
  · exact le_rfl
  · exact not_lt.mp h2

theorem clamp_of_mem (h1 : lo ≤ x) (h2 : x ≤ hi) : clamp x lo hi = x := by
  unfold clamp
  rw [if_neg (not_lt.mpr h1), if_neg (not_lt.mpr h2)]

/-- `clamp` as the lattice operations of the library. -/
theorem clamp_eq_max_min (h : lo ≤ hi) : clamp x lo hi = max lo (min x hi) := by
  rcases lt_or_ge x lo with h1 | h1
  · simp [clamp, h1, h1.le, h1.le.trans h]
  · rcases lt_or_ge hi x with h2 | h2
    · simp [clamp, h2, h2.le, not_lt.mpr h1, h]
    · simp [clamp, not_lt.mpr h1, not_lt.mpr h2, h1, h2]

/-- The values that round to `n`, from 0 up. -/
theorem roundAway_eq_iff {q : Rat} (hq : 0 ≤ q) (n : Int) :
    roundAway q = n ↔ (n : Rat) - 1 / 2 ≤ q ∧ q < n + 1 / 2 := by
  unfold roundAway
  rw [if_pos hq, Int.floor_eq_iff]
  constructor <;> rintro ⟨h1, h2⟩ <;> constructor <;> linarith

/-- Below 0, rounding is the mirror image of rounding above 0. -/
theorem roundAway_of_neg {q : Rat} (hq : q < 0) : roundAway q = -roundAway (-q) := by
  unfold roundAway
  rw [if_neg (not_le.mpr hq), if_pos (by linarith)]

theorem sext5_range (v : BitVec 5) : -16 ≤ sext5 v ∧ sext5 v ≤ 15 := by
  revert v; decide

theorem zext_range {n : Nat} (v : BitVec n) : 0 ≤ zext v ∧ zext v < 2 ^ n := by
  unfold zext
  exact ⟨Int.natCast_nonneg _, by exact_mod_cast v.isLt⟩

end Sys2Proof.Machine
end

