-- ==== Sys2Proof/Laws/State.lean ====
section
/-! SUPPORT. The fields of the state after each named operation: one lemma per field per update. -/

namespace Sys2Proof.Machine

variable (s : State) (r : Response) (c : CommandWord)

@[simp] theorem State.advance_rspValid : s.advance.rspValid = s.rspValid := rfl
@[simp] theorem State.advance_rspOp : s.advance.rspOp = s.rspOp := rfl
@[simp] theorem State.advance_rspData : s.advance.rspData = s.rspData := rfl
@[simp] theorem State.advance_edges : s.advance.edges = s.edges.tail := rfl
@[simp] theorem State.advance_response : s.advance.response = s.response := rfl
@[simp] theorem State.advance_held : s.advance.held = s.held := rfl

@[simp] theorem State.clear_rspValid : s.clear.rspValid = false := rfl
@[simp] theorem State.clear_rspOp : s.clear.rspOp = 0 := rfl
@[simp] theorem State.clear_rspData : s.clear.rspData = 0 := rfl
@[simp] theorem State.clear_edges : s.clear.edges = s.edges := rfl
@[simp] theorem State.clear_held : s.clear.held = [] := rfl

@[simp] theorem State.hold_rspValid : (s.hold r).rspValid = true := rfl
@[simp] theorem State.hold_rspOp : (s.hold r).rspOp = r.op := rfl
@[simp] theorem State.hold_rspData : (s.hold r).rspData = r.data := rfl
@[simp] theorem State.hold_edges : (s.hold r).edges = s.edges := rfl
@[simp] theorem State.hold_response : (s.hold r).response = r := rfl
@[simp] theorem State.hold_held : (s.hold r).held = [r] := rfl

@[simp] theorem State.release_rspValid : s.release.rspValid = false := rfl
@[simp] theorem State.release_rspOp : s.release.rspOp = s.rspOp := rfl
@[simp] theorem State.release_rspData : s.release.rspData = s.rspData := rfl
@[simp] theorem State.release_edges : s.release.edges = s.edges := rfl
@[simp] theorem State.release_held : s.release.held = [] := rfl

@[simp] theorem State.present_rspValid : (s.present c).rspValid = s.rspValid := rfl
@[simp] theorem State.present_rspOp : (s.present c).rspOp = s.rspOp := rfl
@[simp] theorem State.present_rspData : (s.present c).rspData = s.rspData := rfl
@[simp] theorem State.present_ports : (s.present c).ports = Ports.presenting c := rfl
@[simp] theorem State.present_advance : (s.present c).advance = s.advance := rfl

/-- The register is empty or holds its one response (R10). -/
theorem State.held_of_valid (h : s.rspValid = true) : s.held = [s.response] := by simp [State.held, h]

theorem State.held_of_not_valid (h : s.rspValid = false) : s.held = [] := by simp [State.held, h]

end Sys2Proof.Machine
end

