-- ==== Sys2Proof/Laws/Bits.lean ====
section
/-! SUPPORT. What the readers of a word answer on the word its writer makes: the op bit and the payload of a command word, the
pixel of 24 bits, and the command word on the ports of a presenting host. -/

namespace Sys2Proof

theorem commandOp_append (op : BitVec 1) (d : Payload) (h : 1 + 96 = 97) : commandOp ((op ++ d).cast h) = op := by
  apply BitVec.eq_of_getLsbD_eq
  intro i hi
  obtain rfl : i = 0 := by omega
  simp only [commandOp, BitVec.getLsbD_extractLsb', BitVec.getLsbD_cast, BitVec.getLsbD_append]
  simp

theorem commandData_append (op : BitVec 1) (d : Payload) (h : 1 + 96 = 97) :
    commandData ((op ++ d).cast h) = d := by
  apply BitVec.eq_of_getLsbD_eq
  intro i hi
  simp only [commandData, BitVec.getLsbD_extractLsb', BitVec.getLsbD_cast, BitVec.getLsbD_append]
  simp [hi]

theorem append_commandOp_commandData (c : CommandWord) (h : 1 + 96 = 97) :
    (commandOp c ++ commandData c).cast h = c := by
  apply BitVec.eq_of_getLsbD_eq
  intro i hi
  simp only [commandOp, commandData, BitVec.getLsbD_cast, BitVec.getLsbD_append, BitVec.getLsbD_extractLsb']
  split
  · simp [*]
  · obtain rfl : i = 96 := by omega
    simp

theorem Pixel.ofBits_toBits (p : Pixel) : Pixel.ofBits p.toBits = p := by
  have select : ∀ (x y z : BitVec 8) (i : Nat), i < 8 →
      (x ++ y ++ z).getLsbD (16 + i) = x.getLsbD i ∧ (x ++ y ++ z).getLsbD (8 + i) = y.getLsbD i ∧
        (x ++ y ++ z).getLsbD (0 + i) = z.getLsbD i := by
    intro x y z i hi
    simp only [BitVec.getLsbD_append]
    refine ⟨?_, ?_, ?_⟩
    · rw [if_neg (by omega), if_neg (by omega), show 16 + i - 8 - 8 = i by omega]
    · rw [if_neg (by omega), if_pos (by omega), show 8 + i - 8 = i by omega]
    · rw [if_pos (by omega), Nat.zero_add]
  rcases p with ⟨r, g, b⟩
  simp only [Pixel.ofBits, Pixel.toBits, Pixel.mk.injEq]
  refine ⟨?_, ?_, ?_⟩ <;> apply BitVec.eq_of_getLsbD_eq <;> intro i hi <;>
    rw [BitVec.getLsbD_extractLsb'] <;> simp only [hi, decide_true, Bool.true_and]
  · exact (select r g b i hi).1
  · exact (select r g b i hi).2.1
  · exact (select r g b i hi).2.2

namespace Machine

/-- A presenting host puts the word itself on the ports. -/
theorem Ports.command_presenting (c : CommandWord) : (Ports.presenting c).command = c :=
  append_commandOp_commandData c _

end Machine

end Sys2Proof
end

