-- ==== Sys2Proof/Laws/PerInstr.lean ====
section
/-! SUPPORT. The per-instruction family `MatchesRow`: the word of a command has the fixed bits of the command's row in the opcode
table (30 section 5). -/

namespace Sys2Proof.Laws

/-- Masking with bit 96 reads bit 96. -/
theorem and_bit96 (c : CommandWord) :
    c &&& 0x1000000000000000000000000#97 = if c.getLsbD 96 then 0x1000000000000000000000000#97 else 0 := by
  have h : (0x1000000000000000000000000#97 : BitVec 97) = BitVec.twoPow 97 96 := by decide
  rw [h, BitVec.and_twoPow]; rfl

end Sys2Proof.Laws

namespace Sys2Proof.Laws.MatchesRow

open Sys2Proof

/-- The word of the command belongs to the command's row. -/
def Statement (i : Instr) : Prop := i.row.selects (encode i) = true

theorem enc (p0 p1 p2 p3 : Pixel) : Statement (.enc p0 p1 p2 p3) := by
  simp only [Statement, Instr.row, OpcodeRow.selects, encRow]
  rw [Sys2Proof.Laws.and_bit96]
  simp only [encode, BitVec.getLsbD_cast, BitVec.getLsbD_append]
  rfl

theorem dec (ignored : BitVec 64) (w : Codeword) : Statement (.dec ignored w) := by
  simp only [Statement, Instr.row, OpcodeRow.selects, decRow]
  rw [Sys2Proof.Laws.and_bit96]
  simp only [encode, BitVec.getLsbD_cast, BitVec.getLsbD_append]
  rfl

end Sys2Proof.Laws.MatchesRow
end

