-- ==== Sys2Proof/Laws/Step.lean ====
section
/-! SUPPORT. What a step can do, said once: the meaning of every command is one write of its response into the result register,
and a step is one of four writes. -/

namespace Sys2Proof.Machine

/-- Everything an accepted command does in a build: its response is in the register. -/
theorem execWith_eq_hold (cfg : Config) (i : Instr) (s : State) :
    execWith cfg i s = .next (s.hold (commandResponse cfg i)) := by
  cases i <;> rfl

/-- The machine behind the fixed names is the build with the defaults: its dispatch. -/
theorem exec_eq_execWith : exec = execWith defaults := by
  funext i s
  cases i <;> rfl

/-- The machine behind the fixed names is the build with the defaults: its step. -/
theorem step_eq_stepWith : step = stepWith defaults := by
  funext s
  show edgeBy exec s = edgeBy (execWith defaults) s
  rw [exec_eq_execWith]

/-- Everything an accepted command does: its response is in the register. -/
theorem exec_eq_hold (i : Instr) (s : State) : exec i s = .next (s.hold (commandResponse defaults i)) := by
  rw [exec_eq_execWith, execWith_eq_hold]

/-- The state after an edge of a build, by the branches of R20. -/
def afterEdgeWith (cfg : Config) (s : State) : State :=
  if s.ports.rst then s.advance.clear
  else if s.accept then s.advance.hold (commandResponse cfg s.command)
  else if s.deliver then s.advance.release
  else s.advance

/-- The state after an edge of the machine behind the fixed names. -/
abbrev afterEdge (s : State) : State := afterEdgeWith defaults s

/-- One edge of a build, as a function of the state. -/
theorem stepWith_eq_afterEdgeWith (cfg : Config) (s : State) : stepWith cfg s = .next (afterEdgeWith cfg s) := by
  unfold stepWith edgeBy afterEdgeWith
  split <;> [rfl; split] <;> [exact execWith_eq_hold _ _ _; split] <;> rfl

/-- One edge, as a function of the state. -/
theorem step_eq_afterEdge (s : State) : step s = .next (afterEdge s) := by
  rw [step_eq_stepWith, stepWith_eq_afterEdgeWith]

/-- Everything a step of a build can do (R20): reset, accept, deliver only, or nothing but the passing of the edge. -/
theorem stepWith_cases {cfg : Config} {s t : State} (h : stepWith cfg s = .next t) :
    (s.ports.rst = true ∧ t = s.advance.clear) ∨
    (s.ports.rst = false ∧ s.accept = true ∧ t = s.advance.hold (commandResponse cfg s.command)) ∨
    (s.ports.rst = false ∧ s.accept = false ∧ s.deliver = true ∧ t = s.advance.release) ∨
    (s.ports.rst = false ∧ s.accept = false ∧ s.deliver = false ∧ t = s.advance) := by
  rw [stepWith_eq_afterEdgeWith] at h
  obtain rfl : afterEdgeWith cfg s = t := by simpa using h
  unfold afterEdgeWith
  cases s.ports.rst <;> cases s.accept <;> cases s.deliver <;> simp

/-- Everything a step can do (R20). -/
theorem step_cases {s t : State} (h : step s = .next t) :
    (s.ports.rst = true ∧ t = s.advance.clear) ∨
    (s.ports.rst = false ∧ s.accept = true ∧ t = s.advance.hold (commandResponse defaults s.command)) ∨
    (s.ports.rst = false ∧ s.accept = false ∧ s.deliver = true ∧ t = s.advance.release) ∨
    (s.ports.rst = false ∧ s.accept = false ∧ s.deliver = false ∧ t = s.advance) :=
  stepWith_cases (step_eq_stepWith ▸ h)

/-- The trace of one more edge. -/
theorem trace_succ (n : Nat) (s : State) :
    trace (n + 1) s =
      { accepted := if s.accept then s.command :: (trace n (afterEdge s)).accepted else (trace n (afterEdge s)).accepted
        delivered := if s.deliver then s.response :: (trace n (afterEdge s)).delivered
          else (trace n (afterEdge s)).delivered
        resets := s.ports.rst.toNat + (trace n (afterEdge s)).resets
        final := (trace n (afterEdge s)).final } := by
  simp only [trace, step_eq_afterEdge]

end Sys2Proof.Machine
end

