-- ==== Sys2Proof/Tests/Slice0.lean ====
section
/-! SUPPORT. The model's own tests. Every expected value stands in spec/95_test_vectors.md or in a corner case of a rule (named at
each test); words are written out from the encodings of 30. After them, a witness for the hypotheses of every statement that
has any. -/

namespace Sys2Proof.Machine

/-! ### WellFormed: one ill-formed term for each check of R52 -/

theorem test_wellFormed_refuses_a : (Shorthand.decf 512 0 0 0 0 0).wellFormed = false := by decide
theorem test_wellFormed_refuses_b : (Shorthand.decf 0 (-17) 0 0 0 0).wellFormed = false := by decide
theorem test_wellFormed_refuses_c : (Shorthand.decf 0 0 16 0 0 0).wellFormed = false := by decide
theorem test_wellFormed_refuses_d : (Shorthand.decf 0 0 0 (-17) 0 0).wellFormed = false := by decide
theorem test_wellFormed_refuses_pb : (Shorthand.decf 0 0 0 0 16 0).wellFormed = false := by decide
theorem test_wellFormed_refuses_pr : (Shorthand.decf 0 0 0 0 0 (-1)).wellFormed = false := by decide
theorem test_wellFormed_takes_the_bounds :
    (Shorthand.decf 511 (-16) 15 (-16) 15 0).wellFormed = true := by decide
theorem test_ill_formed_has_no_expansion : (Shorthand.decf 0 0 0 0 0 16).expand = none := by decide

/-! ### Decoding: words from the tables of R43, R44 and R52 -/

/-- R43, bit by bit: op 0, then the twelve samples of program P1 from bit 95 down. -/
theorem test_decode_enc :
    decode (0b0_00001010_00010100_00011110_00101000_00110010_00111100_01000110_01010000_01011010_01100100_01101110_01111000#97)
      = .enc ⟨10, 20, 30⟩ ⟨40, 50, 60⟩ ⟨70, 80, 90⟩ ⟨100, 110, 120⟩ := by decide

/-- R44, R46: op 1, 64 ignored bits, then `a'` 127, `b'` 6, `c'` 3, `d'` 0, `pb` 9, `pr` 6, field by field. -/
theorem test_decode_dec :
    decode ((1#1 ++ 0xFFFFFFFFFFFFFFFF#64 ++ 0b001111111_00110_00011_00000_1001_0110#32 : BitVec (1 + 64 + 32)).cast (by decide))
      = .dec 0xFFFFFFFFFFFFFFFF#64 0x3F986096#32 := by decide

/-- The table's numbering: the match of the `DEC` row is a `DEC` of zeros, the match of the `ENC` row an `ENC` of zeros. -/
theorem test_decodeTableWord :
    decodeTableWord 97 (2 ^ 96) = some (.dec 0 0) ∧
    decodeTableWord 97 0 = some (.enc ⟨0, 0, 0⟩ ⟨0, 0, 0⟩ ⟨0, 0, 0⟩ ⟨0, 0, 0⟩) ∧
    decodeTableWord 104 (2 ^ 97) = none := by decide

/-- R52: "`DECF 256, -16, 0, 0, 7, 7` is `DEC 0x80400077`". -/
theorem test_decf : (Shorthand.decf 256 (-16) 0 0 7 7).expand = some (.dec 0 0x80400077#32) := by decide

/-- R48, the first and last rows of the table of patterns. -/
theorem test_sext5 : sext5 0b10000#5 = -16 ∧ sext5 0b11111#5 = -1 ∧ sext5 0b01111#5 = 15 ∧ trunc 5 (-15) = 0b10001#5 := by
  decide

/-- 2.6: `pack(165,-1,1,0,3,15) = 0x52FC203F`, `unpack(0xDEADBEEF) = (445,11,13,-2,14,15)`. -/
theorem test_pack_unpack :
    pack (Fields.ofInts 165 (-1) 1 0 3 15) = 0x52FC203F#32 ∧
    (unpack 0xDEADBEEF#32).toInts = (445, 11, 13, -2, 14, 15) := by decide

/-! ### Stage functions: ties and saturation (2.1 to 2.5) -/

theorem test_round_ties : roundAway (5 / 2) = 3 ∧ roundAway (-(29 / 2)) = -15 ∧ roundAway (49 / 100) = 0 := by
  decide +kernel

theorem test_quantizer_ties :
    qDc (1 / 2) = 256 ∧ qDc (1 / 1022) = 1 ∧ qAc (-(29 / 100)) = -15 ∧ qAc (289 / 1000) = 14 ∧ qAc (9 / 20) = 15 := by
  decide +kernel

/-- R92: chroma 0 is a tie and takes the lower index; values out of range are clamped first. -/
theorem test_index_ties :
    indexOfChroma defaults 0 = 7 ∧ indexOfChroma defaults (11 / 40) = 14 ∧ indexOfChroma defaults (2751 / 10000) = 15 ∧
    indexOfChroma defaults (-(7 / 10)) = 0 := by decide +kernel

/-- R63: a tie rounds up, a luma above 1 clamps high, below 0 clamps low. -/
theorem test_cscInv :
    cscInv defaults ⟨1 / 2, 0, 0⟩ = ⟨128, 128, 128⟩ ∧ cscInv defaults ⟨6 / 5, 0, 0⟩ = ⟨255, 255, 255⟩ ∧
    cscInv defaults ⟨-(1 / 10), 0, 0⟩ = ⟨0, 0, 0⟩ ∧ cscInv defaults ⟨1 / 2, -(7 / 20), 7 / 20⟩ = ⟨253, 94, 0⟩ := by
  decide +kernel

/-- R70, S5: the bottom row brighter than the top one is `b`. -/
theorem test_btFwd : btFwd ⟨13 / 255, 13 / 255, 46 / 51, 1⟩ = ⟨511 / 1020, 9 / 20, 5 / 204, 5 / 204⟩ := by decide +kernel

/-- 2.4 and 2.5, integer forms: a tie, a negative tie, and the strict comparison at a threshold. -/
theorem test_integer_forms :
    qDcNum 510000 = 256 ∧ qDcNum 509999 = 255 ∧ qAcNum (-51000) = -3 ∧ qAcNum 295799 = 14 ∧
    chromaIndexNum (-22440000) = 6 ∧ chromaIndexNum (-22439999) = 7 := by decide

/-! ### The two commands, one step each (2.7, 2.8, 2.9) -/

/-- 2.7, `ENC (90,140,200), ...`: mixed fields, from reset. -/
theorem test_step_enc :
    step (State.reset.withFetchWord 97 0x05A8CC85C8BC53C64963A6398) =
      .next { State.reset with rspValid := true, rspData := 0x70F000D3#96 } := by
  rw [step_eq_afterEdge]
  exact congrArg Host.Outcome.next (by decide +kernel)

/-- 2.7, `ENCG 51,0,0,0`: three ties of 2.5 at once, with a response delivered at the same edge. -/
theorem test_step_enc_replaces :
    afterEdge (State.withFetchWord ⟨true, 1, 0xABC#96, []⟩ 97 0x0333333000000000000000000) =
      ⟨true, 0, 0x0D77A377#96, []⟩ := by decide +kernel

/-- 2.8, `DEC 0x12345678`: clamping low in one pixel, from reset. -/
theorem test_step_dec :
    step (State.reset.withFetchWord 97 0x1000000000000000012345678) =
      .next { State.reset with rspValid := true, rspOp := 1, rspData := 0x000000110C08817C782F2A26#96 } := by
  rw [step_eq_afterEdge]
  exact congrArg Host.Outcome.next (by decide +kernel)

/-- P4, edge 7: the upper 64 payload bits of a `DEC` are ignored. -/
theorem test_step_dec_ignores :
    afterEdge ⟨true, 0, 0x3F986096#96, [⟨false, true, 1, 0xFFFFFFFFFFFFFFFF3F986096#96, true⟩]⟩ =
      ⟨true, 1, 0x06152024333F43525E61707C#96, []⟩ := by decide +kernel

/-- 2.9: back-pressure holds the response, and a delivery alone keeps the stale data. -/
theorem test_edges_without_command :
    afterEdge ⟨true, 0, 0x77#96, [⟨false, true, 1, 0x80800077#96, false⟩]⟩ = ⟨true, 0, 0x77#96, []⟩ ∧
    afterEdge ⟨true, 0, 0x77#96, [⟨false, false, 1, 0#96, true⟩]⟩ = ⟨false, 0, 0x77#96, []⟩ ∧
    afterEdge ⟨true, 1, 0x77#96, [⟨true, true, 0, 0#96, true⟩]⟩ = ⟨false, 0, 0#96, []⟩ := by decide +kernel

/-- R5, R63: a block built with another `CSC_INV`, whose three rows are the luma alone, decodes white to white; the default build
gives (251,255,250). -/
theorem test_step_of_another_build :
    stepWith { defaults with invMatrix := ⟨⟨1, 0, 0⟩, ⟨1, 0, 0⟩, ⟨1, 0, 0⟩⟩ }
      (State.reset.withFetchWord 97 0x10000000000000000FF800077) =
        .next ⟨true, 1, 0xFFFFFFFFFFFFFFFFFFFFFFFF#96, []⟩ := by
  rw [stepWith_eq_afterEdgeWith]
  exact congrArg Host.Outcome.next (by decide +kernel)

/-! ### The stream and the text (20, P2; R51) -/

/-- The raster of program P2. -/
def rasterP2 : Raster :=
  ⟨4, 2, [⟨10, 20, 30⟩, ⟨40, 50, 60⟩, ⟨200, 30, 30⟩, ⟨210, 40, 35⟩, ⟨70, 80, 90⟩, ⟨100, 110, 120⟩, ⟨190, 25, 28⟩, ⟨205, 33, 31⟩]⟩

/-- P2: `3F 98 60 96 52 FC 20 3F`. -/
theorem test_compress_P2 :
    (compress defaults rasterP2).toOption = some [0x3F, 0x98, 0x60, 0x96, 0x52, 0xFC, 0x20, 0x3F] := by decide +kernel

/-- P2: the reconstructed raster. -/
theorem test_decompress_P2 :
    (decompress defaults 4 2 [0x3F, 0x98, 0x60, 0x96, 0x52, 0xFC, 0x20, 0x3F]).toOption =
      some ⟨4, 2, [⟨6, 21, 32⟩, ⟨36, 51, 63⟩, ⟨207, 27, 37⟩, ⟨218, 38, 47⟩, ⟨67, 82, 94⟩, ⟨97, 112, 124⟩, ⟨197, 17, 27⟩,
        ⟨207, 27, 37⟩]⟩ := by decide +kernel

/-- R51: `DEC 0x3F986096`. -/
theorem test_text : commandText (.dec 0 0x3F986096#32) = "DEC 0x3F986096" := by decide +kernel

/-! ### Witnesses: values that meet the hypotheses of the statements -/

/-- A state with a held response, and a command waiting two edges for the host to take the response. -/
def waiting : State :=
  ⟨true, 0, 0x77#96, [⟨false, true, 1, 0x80800077#96, false⟩, ⟨false, true, 1, 0x80800077#96, true⟩]⟩

theorem witness_EncWordFieldPositions :
    (0x1000000000000000000000000#97).getLsbD 96 = true ∧ (0x0FFFFFFFFFFFFFFFFFFFFFFFF#97).getLsbD 96 = false := by decide

theorem witness_DecWordFieldPositionsAndIgnoredBits :
    (0x1000000000000000000000000#97).getLsbD 96 = true ∧
    (0xFFFFFFFFFFFFFFFF3F986096#96).extractLsb' 0 32 = (0x3F986096#96).extractLsb' 0 32 := by decide

theorem witness_OneOpcodeRowSelectsEachWord : encRow ∈ opcodeTable ∧ decRow ∈ opcodeTable := by decide

/-- The operand ranges of `pack`, at their bounds: the hypotheses of ShorthandsExpand, PackIsTheSumOfShiftedFields,
PackAndUnpackAreInverse and DecPixelsFromFieldValues. -/
theorem witness_field_ranges : ∃ a b c d pb pr : Int,
    0 ≤ a ∧ a ≤ 511 ∧ -16 ≤ b ∧ b ≤ 15 ∧ -16 ≤ c ∧ c ≤ 15 ∧ -16 ≤ d ∧ d ≤ 15 ∧ 0 ≤ pb ∧ pb ≤ 15 ∧ 0 ≤ pr ∧ pr ≤ 15 ∧
      a = 511 ∧ b = -16 ∧ c = 15 ∧ d = -16 ∧ pb = 15 ∧ pr = 0 :=
  ⟨511, -16, 15, -16, 15, 0, by decide⟩

theorem witness_FieldEncodings :
    ((0 : Int) ≤ 511 ∧ (511 : Int) < 2 ^ 9) ∧ ((-16 : Int) ≤ 15 ∧ (15 : Int) ≤ 15 ∧ (0 : Int) ≤ 15) ∧
    ((-16 : Int) ≤ -16 ∧ (-16 : Int) ≤ 15 ∧ (-16 : Int) < 0) := by decide

theorem witness_ClampSaturates :
    ((0 : Rat) ≤ 1 ∧ (-2 : Rat) < 0) ∧ ((0 : Rat) ≤ 1 ∧ (1 : Rat) < 6 / 5) ∧ ((0 : Rat) ≤ 1 ∧ (0 : Rat) ≤ 1 / 3 ∧ (1 / 3 : Rat) ≤ 1) ∧
    ((-15 : Int) ≤ 15 ∧ (0 : Rat) < 50) := by norm_num

theorem witness_RoundIsNearestTiesAwayFromZero :
    |(roundAway (5 / 2) : Rat) - 5 / 2| = 1 / 2 ∧ (0 : Rat) ≤ 1 / 2 ∧ (-(1 / 2) : Rat) < 0 ∧ (-(1 / 2) : Rat) ≤ 1 / 2 := by
  decide +kernel

/-- The default tables meet R6: the hypothesis of CscFwdRangeAndGreys and ChromaGridAndErrors, and with it that
of the strictly increasing table in IndexIsLowestNearestAndCountsMidpoints. -/
theorem witness_defaults_valid : defaults.Valid := by decide +kernel

theorem witness_CscInvIntegerForm : (lumaNums (unpack 0xFFBDEF88#32)).l3 = 48545 ∧
    (48545 : Int) ∈ [(lumaNums (unpack 0xFFBDEF88#32)).l0, (lumaNums (unpack 0xFFBDEF88#32)).l1,
      (lumaNums (unpack 0xFFBDEF88#32)).l2, (lumaNums (unpack 0xFFBDEF88#32)).l3] := by decide

theorem witness_BtFwdRanges : (0 : Rat) ≤ 0 ∧ (0 : Rat) ≤ 1 ∧ (1 : Rat) ≤ 1 := by norm_num

theorem witness_Dequantizers :
    ((0 : Int) ≤ 511 ∧ (511 : Int) ≤ 511) ∧ ((-16 : Int) ≤ -16 ∧ (-16 : Int) ≤ 15) ∧ ((-15 : Int) ≤ 15 ∧ (15 : Int) ≤ 15) := by
  decide

theorem witness_QuantizerErrorBounds :
    ((0 : Rat) ≤ 1 / 2 ∧ (1 / 2 : Rat) ≤ 1) ∧ |(3 / 10 : Rat)| ≤ 3 / 10 ∧ 3 / 10 < |(-(1 / 2) : Rat)| := by
  refine ⟨by norm_num, ?_, ?_⟩ <;> norm_num [abs_of_nonneg, abs_of_neg]

theorem witness_QuantizerIntegerForms : (0 : Int) ≤ 510000 ∧ (510000 : Int) ≤ 1020000 := by decide

theorem witness_chroma_ranges :
    |(1 / 2 : Rat)| ≤ 1 / 2 ∧ |(22 / 1000 : Rat)| ≤ 22 / 1000 ∧ |(275 / 1000 : Rat)| ≤ 35 / 100 ∧ 35 / 100 < |(1 / 2 : Rat)| := by
  refine ⟨?_, ?_, ?_, ?_⟩ <;> norm_num [abs_of_nonneg]

theorem witness_IndexIsLowestNearestAndCountsMidpoints : (0 : Fin 16) < indexOfChroma defaults 0 := by decide +kernel

theorem witness_ResetEdge : (State.mk true 1 0x77#96 [Ports.resetting]).ports.rst = true ∧ Ports.resetting.rst = true := by
  decide

theorem witness_StepRunsTheDecodedCommand :
    (State.reset.withFetchWord 97 (2 ^ 96)).accept = true ∧ 2 ^ 96 < 2 ^ 97 ∧
    decodeTableWord 97 (2 ^ 96) = some (.dec 0 0) := by decide

theorem witness_BackPressure : waiting.rspValid = true ∧
    ∀ j < 1, (waiting.edges.getD j Ports.idle).rst = false ∧ (waiting.edges.getD j Ports.idle).rspReady = false := by decide

theorem witness_StepKeepsTheRegisterFormed : State.reset.Inv ∧ step State.reset = .next State.reset := by
  refine ⟨⟨fun _ => by decide, fun h => by simp [State.reset] at h⟩, rfl⟩

theorem witness_ResponsesInOrder : (trace 2 waiting).resets = 0 ∧ (trace 2 waiting).accepted.length = 1 ∧
    (trace 2 waiting).delivered.length = 1 := by decide +kernel

theorem witness_StableCommand : waiting.ports.cmdValid = true ∧ HostStable 1 waiting ∧
    (∀ j ≤ 1, (waiting.edges.getD j Ports.idle).rst = false) ∧ (waiting.edges.getD 1 Ports.idle).rspReady = true := by
  refine ⟨by decide, ⟨by decide, fun _ _ => trivial⟩, by decide, by decide⟩

/-- The hypothesis of ContainerSize (first clause), BlocksTileTheRaster and DecompressOfCompress. -/
theorem witness_raster : rasterP2.wellFormed = true := by decide

theorem witness_odd_raster : (Raster.mk 3 2 []).width % 2 = 1 := by decide

theorem witness_MachineCompressesTheImage : ∃ cs, compressCommands rasterP2 = .ok cs ∧ cs.length = 2 :=
  ⟨rasterP2.blocks.map Block.encCommand, rfl, by decide⟩

end Sys2Proof.Machine
end

/-! PROOFS. The primitives of 00 section 5: `roundAway` by its sign symmetry and its monotonicity, and from them O12 and O13. -/

namespace Sys2Proof.Machine

/-! ### `roundAway` (R9) -/

/-- From 0 up, where a tie goes up, the model's rounding is the library's. -/
theorem roundAway_of_nonneg {q : Rat} (hq : 0 ≤ q) : roundAway q = round q := by
  rw [round_eq]
  exact if_pos hq

theorem roundAway_nonneg {q : Rat} (hq : 0 ≤ q) : 0 ≤ roundAway q := by
  rw [roundAway_of_nonneg hq, round_eq]
  exact Int.floor_nonneg.mpr (by linarith)

theorem roundAway_neg (q : Rat) : roundAway (-q) = -roundAway q := by
  rcases lt_trichotomy q 0 with hq | rfl | hq
  · rw [roundAway_of_neg hq, neg_neg]
  · rw [neg_zero, roundAway_of_nonneg le_rfl, round_zero, neg_zero]
  · rw [roundAway_of_neg (neg_lt_zero.mpr hq), neg_neg]

theorem roundAway_intCast (n : Int) : roundAway (n : Rat) = n := by
  rcases le_or_gt 0 n with hn | hn
  · rw [roundAway_of_nonneg (Int.cast_nonneg hn), round_intCast]
  · have hn' : (0 : Rat) ≤ ((-n : Int) : Rat) := Int.cast_nonneg (by omega)
    rw [roundAway_of_neg (Int.cast_lt_zero.mpr hn), ← Int.cast_neg, roundAway_of_nonneg hn', round_intCast, neg_neg]

theorem roundAway_mono_of_nonneg {p q : Rat} (hp : 0 ≤ p) (hpq : p ≤ q) : roundAway p ≤ roundAway q := by
  rw [roundAway_of_nonneg hp, roundAway_of_nonneg (hp.trans hpq), round_eq, round_eq]
  exact Int.floor_mono (by linarith)

/-- Across 0 the signs decide; below 0 the order is the mirror image of the order above. -/
theorem roundAway_monotone : Monotone roundAway := by
  intro p q hpq
  rcases le_or_gt 0 p with hp | hp
  · exact roundAway_mono_of_nonneg hp hpq
  rw [roundAway_of_neg hp]
  rcases le_or_gt 0 q with hq | hq
  · exact (neg_nonpos.mpr (roundAway_nonneg (neg_nonneg.mpr hp.le))).trans (roundAway_nonneg hq)
  · rw [roundAway_of_neg hq]
    exact neg_le_neg (roundAway_mono_of_nonneg (neg_nonneg.mpr hq.le) (neg_le_neg hpq))

/-- Rounding is symmetric in the sign, so facts about magnitudes and distances need a proof from 0 up only. -/
theorem roundAway_abs (q : Rat) : roundAway |q| = |roundAway q| := by
  rcases le_total 0 q with hq | hq
  · rw [abs_of_nonneg hq, abs_of_nonneg (roundAway_nonneg hq)]
  · have h := roundAway_nonneg (neg_nonneg.mpr hq)
    rw [abs_of_nonpos hq, ← abs_of_nonneg h, roundAway_neg, abs_neg]

theorem abs_roundAway_sub (q : Rat) : |(roundAway |q| - |q| : Rat)| = |(roundAway q : Rat) - q| := by
  rcases le_total 0 q with hq | hq
  · rw [abs_of_nonneg hq]
  · rw [abs_of_nonpos hq, roundAway_neg, Int.cast_neg, ← neg_sub', abs_neg]

theorem abs_roundAway_sub_le (q : Rat) : |(roundAway q : Rat) - q| ≤ 1 / 2 := by
  rw [← abs_roundAway_sub, roundAway_of_nonneg (abs_nonneg q), abs_sub_comm]
  exact abs_sub_round |q|

/-- At a tie from 0 up the result is the upper of the two neighbours. -/
theorem lt_roundAway_of_tie {q : Rat} (hq : 0 ≤ q) (h : |(roundAway q : Rat) - q| = 1 / 2) : q < roundAway q := by
  have hlt : q < roundAway q + 1 / 2 := ((roundAway_eq_iff hq _).mp rfl).2
  rcases eq_or_eq_neg_of_abs_eq h with h | h <;> linarith

theorem abs_lt_abs_roundAway_of_tie {q : Rat} (h : |(roundAway q : Rat) - q| = 1 / 2) :
    |q| < |(roundAway q : Rat)| := by
  have hlt := lt_roundAway_of_tie (abs_nonneg q) ((abs_roundAway_sub q).trans h)
  rwa [roundAway_abs, Int.cast_abs] at hlt

/-- Settles O13: the library's `round` from 0 up, carried below 0 by the sign symmetry of `roundAway`. -/
theorem roundIsNearestTiesAwayFromZero : Obligations.RoundIsNearestTiesAwayFromZero :=
  ⟨abs_roundAway_sub_le, fun _ => abs_lt_abs_roundAway_of_tie, fun _ hq => if_pos hq,
    fun _ hq => if_neg (not_le.mpr hq), roundAway_neg, fun _ _ hpq => roundAway_monotone hpq, roundAway_intCast⟩

/-! ### `clamp` (R8) and its commuting with rounding (00 section 5) -/

theorem clamp_of_lt {α : Type} [LinearOrder α] {x lo hi : α} (h : x < lo) : clamp x lo hi = lo := if_pos h

theorem clamp_of_gt {α : Type} [LinearOrder α] {x lo hi : α} (hle : lo ≤ hi) (h : hi < x) : clamp x lo hi = hi := by
  unfold clamp
  rw [if_neg (not_lt.mpr (hle.trans h.le)), if_pos h]

theorem clamp_div_mul {x s lo hi : Rat} (hle : lo ≤ hi) (hs : 0 < s) :
    clamp x (lo / s) (hi / s) * s = clamp (x * s) lo hi := by
  rw [clamp_eq_max_min (div_le_div_of_nonneg_right hle hs.le), clamp_eq_max_min hle, max_mul_of_nonneg _ _ hs.le,
    min_mul_of_nonneg _ _ hs.le, div_mul_cancel₀ _ hs.ne', div_mul_cancel₀ _ hs.ne']

/-- A monotone function that fixes the bounds commutes with the clamp. -/
theorem roundAway_clamp {lo hi : Int} (hle : lo ≤ hi) (x : Rat) :
    roundAway (clamp x lo hi) = clamp (roundAway x) lo hi := by
  rw [clamp_eq_max_min (Int.cast_le.mpr hle), clamp_eq_max_min hle, roundAway_monotone.map_max,
    roundAway_monotone.map_min, roundAway_intCast, roundAway_intCast]

/-- Settles O12: scaling by a positive factor and rounding are monotone, and they take the bounds `lo/s` and `hi/s` to `lo`
and `hi`. -/
theorem clampSaturatesAndCommutesWithRounding : Obligations.ClampSaturatesAndCommutesWithRounding := by
  refine ⟨fun x lo hi hle => ⟨clamp_of_lt, clamp_of_gt hle, clamp_of_mem⟩, fun x s lo hi hle hs => ?_⟩
  rw [clamp_div_mul (Int.cast_le.mpr hle) hs, roundAway_clamp hle]

end Sys2Proof.Machine

/-! PROOFS. The clocked step of 10 (R12, R13, R18, R20): what each branch of an edge leaves in the register, the response of a
command word, and from them O44 to O47, O49 and O51. -/

namespace Sys2Proof.Machine

/-! ### The handshake signals (R13, R20) -/

/-- `accept` as R20 writes it. -/
theorem State.accept_eq (s : State) :
    s.accept = (!s.ports.rst && s.ports.cmdValid && (!s.rspValid || s.ports.rspReady)) := by
  rw [State.accept, State.cmdReady, ← Bool.and_assoc, Bool.and_comm s.ports.cmdValid]

/-- `deliver` as R20 writes it. -/
theorem State.deliver_eq (s : State) : s.deliver = (!s.ports.rst && s.rspValid && s.ports.rspReady) := by
  rw [State.deliver, State.rspValidOut, Bool.and_comm s.rspValid]

theorem State.rst_eq_false_of_accept {s : State} (h : s.accept = true) : s.ports.rst = false := by
  simp only [State.accept_eq, Bool.and_eq_true, Bool.not_eq_true'] at h
  obtain ⟨⟨hrst, -⟩, -⟩ := h
  exact hrst

/-- A reset edge is ready for no command (R18). -/
theorem State.cmdReady_eq_false_of_rst {s : State} (h : s.ports.rst = true) : s.cmdReady = false := by
  simp [State.cmdReady, h]

theorem State.rspValidOut_eq_false_of_rst {s : State} (h : s.ports.rst = true) : s.rspValidOut = false := by
  simp [State.rspValidOut, h]

theorem State.accept_eq_false_of_backPressure {s : State} (hv : s.rspValid = true) (hr : s.ports.rspReady = false) :
    s.accept = false := by
  simp [State.accept_eq, hv, hr]

theorem State.deliver_eq_false_of_not_rspReady {s : State} (hr : s.ports.rspReady = false) : s.deliver = false := by
  simp [State.deliver_eq, hr]

/-- A presented command is accepted whatever the register holds: the presenting host can take a response. -/
@[simp] theorem State.present_accept (s : State) (c : CommandWord) : (s.present c).accept = true := by
  simp [State.accept_eq, Ports.presenting]

@[simp] theorem State.present_command (s : State) (c : CommandWord) : (s.present c).command = decode c := by
  simp [State.command, Ports.command_presenting]

/-! ### The state after an edge, one rule per branch of R20 -/

theorem afterEdgeWith_of_rst {s : State} (cfg : Config) (h : s.ports.rst = true) :
    afterEdgeWith cfg s = s.advance.clear := if_pos h

theorem afterEdgeWith_of_accept {s : State} (cfg : Config) (h : s.accept = true) :
    afterEdgeWith cfg s = s.advance.hold (commandResponse cfg s.command) := by
  simp [afterEdgeWith, State.rst_eq_false_of_accept h, h]

theorem afterEdgeWith_of_deliver {s : State} (cfg : Config) (hrst : s.ports.rst = false) (ha : s.accept = false)
    (hd : s.deliver = true) : afterEdgeWith cfg s = s.advance.release := by
  simp [afterEdgeWith, hrst, ha, hd]

theorem afterEdgeWith_of_no_transfer {s : State} (cfg : Config) (hrst : s.ports.rst = false) (ha : s.accept = false)
    (hd : s.deliver = false) : afterEdgeWith cfg s = s.advance := by
  simp [afterEdgeWith, hrst, ha, hd]

/-! ### The output ports, and the two branches of a step that later proofs cite: reset and accept (R12, R18, R20) -/

theorem step_of_rst {s : State} (h : s.ports.rst = true) : step s = .next s.advance.clear := by
  rw [step_eq_stepWith, stepWith_eq_afterEdgeWith, afterEdgeWith_of_rst _ h]

theorem step_of_accept {s : State} (h : s.accept = true) : step s = exec s.command s.advance := by
  rw [step_eq_stepWith, stepWith_eq_afterEdgeWith, afterEdgeWith_of_accept _ h, exec_eq_hold]

/-- Settles O44: the model's signals are the formulas of R12 and R13. -/
theorem outputPorts : Obligations.OutputPorts := fun _ _ _ _ _ => rfl

/-- Settles O45: the reset branch of the edge comes first, and the free value before the first reset is one register content
among all. -/
theorem resetEdgeClearsTheRegister : Obligations.ResetEdgeClearsTheRegister := by
  refine ⟨fun s h => ⟨?_, State.cmdReady_eq_false_of_rst h, State.rspValidOut_eq_false_of_rst h⟩, fun p rest h => ?_⟩
  · exact step_of_rst h
  · exact step_of_rst (s := State.powerUp (p :: rest)) h

/-! ### The response of a command word (R116) -/

/-- The response of the decoded command is the op bit and `Exec` of the two parts of the word. -/
theorem commandResponse_decode (cfg : Config) (c : CommandWord) :
    commandResponse cfg (decode c) = ⟨commandOp c, execPayload cfg (commandOp c) (commandData c)⟩ := by
  rcases BitVec.eq_zero_or_eq_one (commandOp c) with h | h
  · simp [decode, execPayload, h, commandResponse, encResponse, Response.ofCodeword, Block.ofPayload]
  · simp [decode, execPayload, h, commandResponse, decResponse, Response.ofBlock]

theorem commandResponse_command (cfg : Config) (s : State) :
    commandResponse cfg s.command = ⟨s.ports.cmdOp, execPayload cfg s.ports.cmdOp s.ports.cmdData⟩ := by
  rw [State.command, commandResponse_decode, Ports.command, commandOp_append, commandData_append]

/-- Settles O46: the branches of the rule in their order, each closed by the rule for the state after that branch. -/
theorem clockedStep : Obligations.ClockedStep := by
  refine ⟨fun cfg v op d p rest => ?_, fun s => congrFun step_eq_stepWith s⟩
  intro accept deliver
  have haccept : State.accept ⟨v, op, d, p :: rest⟩ = accept := State.accept_eq _
  have hdeliver : State.deliver ⟨v, op, d, p :: rest⟩ = deliver := State.deliver_eq _
  rw [stepWith_eq_afterEdgeWith, ← haccept, ← hdeliver]
  congr 1
  split_ifs with hrst ha hd
  · exact afterEdgeWith_of_rst cfg hrst
  · rw [afterEdgeWith_of_accept cfg ha, commandResponse_command]
    rfl
  · exact afterEdgeWith_of_deliver cfg (eq_false_of_ne_true hrst) (eq_false_of_ne_true ha) hd
  · exact afterEdgeWith_of_no_transfer cfg (eq_false_of_ne_true hrst) (eq_false_of_ne_true ha) (eq_false_of_ne_true hd)

/-! ### A number that is a command word (R40, R50) -/

theorem decodeTableWord_of_lt {w : Nat} (nbits : Nat) (hw : w < 2 ^ 97) :
    decodeTableWord nbits w = some (decode (BitVec.ofNat 97 w)) := by
  simp only [decodeTableWord, decodeNumber, if_pos hw]

/-- Settles O47: the accept branch is `exec` of the presented command, and `withFetchWord` presents the word of the number. -/
theorem stepRunsTheDecodedCommand : Obligations.StepRunsTheDecodedCommand := by
  refine ⟨fun s => step_of_accept, fun s nbits w i hw hi => ?_⟩
  obtain rfl : decode (BitVec.ofNat 97 w) = i := Option.some.inj ((decodeTableWord_of_lt nbits hw).symm.trans hi)
  have h := step_of_accept (s.present_accept (BitVec.ofNat 97 w))
  rwa [State.present_command, State.present_advance] at h

/-! ### Back-pressure (R20, R134) -/

/-- The whole trace of edges under back-pressure: nothing is transferred, and only the input samples are used up. -/
theorem trace_of_backPressure (n : Nat) (s : State) (hv : s.rspValid = true)
    (hp : ∀ j < n, (s.edges.getD j Ports.idle).rst = false ∧ (s.edges.getD j Ports.idle).rspReady = false) :
    trace n s = ⟨[], [], 0, { s with edges := s.edges.drop n }⟩ := by
  induction n generalizing s with
  | zero => rfl
  | succ n ih =>
    obtain ⟨hrst, hready⟩ : s.ports.rst = false ∧ s.ports.rspReady = false := by
      simpa [State.ports, List.headD_eq_head?_getD, List.head?_eq_getElem?] using hp 0 n.succ_pos
    have ha := State.accept_eq_false_of_backPressure hv hready
    have hd := State.deliver_eq_false_of_not_rspReady hready
    have hrest : trace n s.advance = ⟨[], [], 0, { s with edges := s.edges.drop (n + 1) }⟩ := by
      rw [ih s.advance hv fun j hj => by simpa using hp (j + 1) (Nat.succ_lt_succ hj)]
      simp [State.advance]
    have hedge : afterEdge s = s.advance := afterEdgeWith_of_no_transfer _ hrst ha hd
    rw [trace_succ, hedge, hrest]
    simp [hrst, ha, hd]

/-- Settles O49: the trace has no transfer, and its last state has the register of the first. -/
theorem backPressureHoldsTheResponse : Obligations.BackPressureHoldsTheResponse := by
  intro n s hv hp
  rw [trace_of_backPressure n s hv hp]
  exact ⟨rfl, rfl, rfl⟩

/-! ### The register invariant at reset (R18, R45) -/

/-- A cleared register is formed: its payload is zero, and nothing is held. -/
theorem State.clear_inv (s : State) : s.clear.Inv := by
  refine ⟨fun _ => ?_, fun hvalid => absurd hvalid Bool.false_ne_true⟩
  rw [State.clear_rspData]
  decide

/-- Settles O51: the reset state is a cleared one. -/
theorem resetRegisterIsFormed : Obligations.ResetRegisterIsFormed := State.reset.clear_inv

end Sys2Proof.Machine

/-! PROOFS. The order of the responses (R21, R32): one edge neither loses nor invents a response, and from it O52. -/

namespace Sys2Proof.Machine

/-! ### What a transfer says of the register (R20) -/

theorem State.held_of_deliver {s : State} (h : s.deliver = true) : s.held = [s.response] := by
  simp only [State.deliver_eq, Bool.and_eq_true] at h
  obtain ⟨⟨-, hvalid⟩, -⟩ := h
  exact s.held_of_valid hvalid

/-- A command is accepted beside a held response only if that response leaves at the same edge. -/
theorem State.held_of_accept_of_not_deliver {s : State} (ha : s.accept = true) (hd : s.deliver = false) :
    s.held = [] := by
  apply s.held_of_not_valid
  by_contra hvalid
  simp_all [State.accept_eq, State.deliver_eq]

/-- An edge without reset: what was held and the response of the accepted command are what is delivered and what is held
after the edge, in this order. -/
theorem held_append_accepted_eq {s : State} (cfg : Config) (hrst : s.ports.rst = false) :
    s.held ++ (if s.accept then [commandResponse cfg s.command] else []) =
      (if s.deliver then [s.response] else []) ++ (afterEdgeWith cfg s).held := by
  cases ha : s.accept with
  | true =>
    rw [afterEdgeWith_of_accept cfg ha]
    cases hd : s.deliver with
    | true => simp [State.held_of_deliver hd]
    | false => simp [State.held_of_accept_of_not_deliver ha hd]
  | false =>
    cases hd : s.deliver with
    | true => simp [afterEdgeWith_of_deliver cfg hrst ha hd, State.held_of_deliver hd]
    | false => simp [afterEdgeWith_of_no_transfer cfg hrst ha hd]

/-- Settles O52, by induction on the number of edges: the law of one edge, then the law of the rest of the run. -/
theorem responsesInOrderOfAcceptance : Obligations.ResponsesInOrderOfAcceptance := by
  intro n
  induction n with
  | zero => intro s _; simp [trace]
  | succ n ih =>
    intro s hresets
    rw [trace_succ] at hresets ⊢
    obtain ⟨hrst, hrest⟩ := Nat.add_eq_zero_iff.mp hresets
    have hedge := held_append_accepted_eq defaults (Bool.toNat_eq_zero.mp hrst)
    have hrun := ih (afterEdge s) hrest
    generalize trace n (afterEdge s) = rest at hrun ⊢
    calc s.held ++ (if s.accept then s.command :: rest.accepted else rest.accepted).map (commandResponse defaults)
        = (s.held ++ if s.accept then [commandResponse defaults s.command] else []) ++
            rest.accepted.map (commandResponse defaults) := by split <;> simp
      _ = (if s.deliver then [s.response] else []) ++ (rest.delivered ++ rest.final.held) := by
        rw [hedge, List.append_assoc, hrun]
      _ = (if s.deliver then s.response :: rest.delivered else rest.delivered) ++ rest.final.held := by
        split <;> simp

end Sys2Proof.Machine

/-! PROOFS. The codeword stream of 20 (R35 to R38): bytes and codewords, the blocks of a raster, and what the two whole-image
functions answer; from them O56 to O59. -/

namespace Sys2Proof.Machine

/-! ### Bytes and codewords (R35) -/

theorem codewordBytes_append (w : Codeword) :
    w.extractLsb' 24 8 ++ w.extractLsb' 16 8 ++ w.extractLsb' 8 8 ++ w.extractLsb' 0 8 = w := by
  rw [BitVec.extractLsb'_append_extractLsb'_eq_extractLsb' (rfl : 24 = 16 + 8),
    BitVec.extractLsb'_append_extractLsb'_eq_extractLsb' (rfl : 16 = 8 + 8),
    BitVec.extractLsb'_append_extractLsb'_eq_extractLsb' (rfl : 8 = 0 + 8)]
  exact BitVec.extractLsb'_eq_self

theorem codewordsOfBytes_append (w : Codeword) (bytes : List Byte) :
    codewordsOfBytes (codewordBytes w ++ bytes) = w :: codewordsOfBytes bytes :=
  congrArg (· :: codewordsOfBytes bytes) (codewordBytes_append w)

theorem codewordsOfBytes_flatten (ws : List Codeword) : codewordsOfBytes (ws.map codewordBytes).flatten = ws := by
  induction ws with
  | nil => rfl
  | cons w ws ih => rw [List.map_cons, List.flatten_cons, codewordsOfBytes_append, ih]

theorem length_flatten_codewordBytes (ws : List Codeword) :
    (ws.map codewordBytes).flatten.length = 4 * ws.length := by
  simp [codewordBytes, List.length_flatten, Function.comp_def, Nat.mul_comm]

theorem codewordBytes_toNat (w : Codeword) :
    (codewordBytes w).map BitVec.toNat =
      [w.toNat / 2 ^ 24, w.toNat / 2 ^ 16 % 256, w.toNat / 2 ^ 8 % 256, w.toNat % 256] := by
  have htop : w.toNat / 2 ^ 24 % 256 = w.toNat / 2 ^ 24 := Nat.mod_eq_of_lt (by omega)
  simpa [codewordBytes, Nat.shiftRight_eq_div_pow] using htop

/-- Settles O56: each byte is a slice of the word, and the four slices side by side are the word. -/
theorem codewordBytesRoundTrip : Obligations.CodewordBytesRoundTrip :=
  ⟨codewordBytes_toNat, codewordsOfBytes_flatten⟩

/-! ### The raster and its blocks (R36 to R38) -/

theorem evenDimensions_iff {width height : Nat} :
    evenDimensions width height = true ↔ width % 2 = 0 ∧ height % 2 = 0 := by
  simp [evenDimensions]

theorem Raster.wellFormed_iff {r : Raster} :
    r.wellFormed = true ↔ evenDimensions r.width r.height = true ∧ r.pixels.length = r.width * r.height := by
  simp [Raster.wellFormed]

@[simp] theorem Raster.length_blocks (r : Raster) : r.blocks.length = codewordCount r.width r.height := by
  simp [Raster.blocks]

/-- Four bytes for every four pixels. -/
theorem four_mul_codewordCount {width height : Nat} (h : evenDimensions width height = true) :
    4 * codewordCount width height = width * height := by
  obtain ⟨hw, hh⟩ := evenDimensions_iff.mp h
  obtain ⟨m, rfl⟩ := Nat.dvd_of_mod_eq_zero hw
  obtain ⟨n, rfl⟩ := Nat.dvd_of_mod_eq_zero hh
  simp only [codewordCount, Nat.mul_div_cancel_left _ Nat.two_pos]
  ring

/-- The position order of cutting is the position order of placing (R37, R38). -/
theorem Raster.block_pixelAt (r : Raster) (x y : Nat) :
    (r.block (x / 2) (y / 2)).pixelAt (x % 2 == 1) (y % 2 == 1) = r.pixel x y := by
  rcases Nat.even_or_odd' x with ⟨i, rfl | rfl⟩ <;> rcases Nat.even_or_odd' y with ⟨j, rfl | rfl⟩ <;>
    simp [Raster.block, Block.pixelAt, Nat.mul_add_div]

/-- The block at column `i` and row `j` has the number `j * (W/2) + i` (R37). -/
theorem Raster.getElem?_blocks (r : Raster) {i j : Nat} (hi : i < r.width / 2) (hj : j < r.height / 2) :
    r.blocks[j * (r.width / 2) + i]? = some (r.block i j) := by
  have hlt : j * (r.width / 2) + i < codewordCount r.width r.height := by
    unfold codewordCount
    nlinarith
  have hmod : (j * (r.width / 2) + i) % (r.width / 2) = i := by
    rw [Nat.mul_add_mod_self_right, Nat.mod_eq_of_lt hi]
  have hdiv : (j * (r.width / 2) + i) / (r.width / 2) = j := by
    rw [Nat.mul_comm, Nat.mul_add_div (by omega), Nat.div_eq_of_lt hi, Nat.add_zero]
  simp [Raster.blocks, List.getElem?_range hlt, hmod, hdiv]

theorem pixelOfBlocks_blocks {r : Raster} (heven : evenDimensions r.width r.height = true) {x y : Nat}
    (hx : x < r.width) (hy : y < r.height) : pixelOfBlocks r.width r.blocks x y = r.pixel x y := by
  obtain ⟨hw, hh⟩ := evenDimensions_iff.mp heven
  rw [pixelOfBlocks, r.getElem?_blocks (by omega) (by omega), Option.getD_some, Raster.block_pixelAt]

/-- Settles O58: each pixel number `n` is the pixel at column `n mod W` and row `n div W`, which its block gives back. -/
theorem blocksTileTheRaster : Obligations.BlocksTileTheRaster := by
  intro r hr
  obtain ⟨heven, hlength⟩ := Raster.wellFormed_iff.mp hr
  have hpixels : (rasterOfBlocks r.width r.height r.blocks).pixels = r.pixels := by
    apply List.ext_getElem
    · simp [rasterOfBlocks, hlength]
    intro n _ hn
    have hlt : n < r.height * r.width := by rwa [hlength, Nat.mul_comm] at hn
    have hwidth : 0 < r.width := Nat.pos_of_mul_pos_left (Nat.zero_lt_of_lt hlt)
    have hpixel := pixelOfBlocks_blocks heven (Nat.mod_lt n hwidth) (Nat.div_lt_of_lt_mul (by rwa [Nat.mul_comm] at hlt))
    simp [rasterOfBlocks, hpixel, Raster.pixel, Nat.div_add_mod', hn]
  exact congrArg (Raster.mk r.width r.height) hpixels

/-! ### The responses the host reads (R45) -/

@[simp] theorem Response.codeword_ofCodeword (w : Codeword) : (Response.ofCodeword w).codeword = w := by
  rw [Response.codeword, Response.ofCodeword, BitVec.extractLsb'_setWidth_of_le (by decide), BitVec.extractLsb'_eq_self]

/-- Four parts of one width, each by its offset in the whole. -/
theorem extractLsb'_append_four {n : Nat} (x0 x1 x2 x3 : BitVec n) :
    (x0 ++ x1 ++ x2 ++ x3).extractLsb' (n + n + n) n = x0 ∧ (x0 ++ x1 ++ x2 ++ x3).extractLsb' (n + n) n = x1 ∧
      (x0 ++ x1 ++ x2 ++ x3).extractLsb' n n = x2 ∧ (x0 ++ x1 ++ x2 ++ x3).extractLsb' 0 n = x3 := by
  simp [BitVec.extractLsb'_append_eq_of_le, BitVec.extractLsb'_append_eq_right, BitVec.extractLsb'_eq_self,
    Nat.add_assoc]

/-- Each pixel of a block stands at its offset in the payload (R43). -/
theorem payloadPixel_toPayload (k : Block) :
    payloadPixel k.toPayload 0 = k.p0 ∧ payloadPixel k.toPayload 1 = k.p1 ∧ payloadPixel k.toPayload 2 = k.p2 ∧
      payloadPixel k.toPayload 3 = k.p3 := by
  obtain ⟨h0, h1, h2, h3⟩ := extractLsb'_append_four k.p0.toBits k.p1.toBits k.p2.toBits k.p3.toBits
  exact ⟨(congrArg Pixel.ofBits h0).trans k.p0.ofBits_toBits, (congrArg Pixel.ofBits h1).trans k.p1.ofBits_toBits,
    (congrArg Pixel.ofBits h2).trans k.p2.ofBits_toBits, (congrArg Pixel.ofBits h3).trans k.p3.ofBits_toBits⟩

theorem Block.ofPayload_toPayload (k : Block) : Block.ofPayload k.toPayload = k := by
  obtain ⟨h0, h1, h2, h3⟩ := payloadPixel_toPayload k
  rw [Block.ofPayload, h0, h1, h2, h3]

@[simp] theorem Response.block_ofBlock (k : Block) : (Response.ofBlock k).block = k := Block.ofPayload_toPayload k

theorem codeword_encCommand (cfg : Config) (k : Block) :
    (commandResponse cfg k.encCommand).codeword = encBlock cfg k := Response.codeword_ofCodeword _

theorem block_decCommand (cfg : Config) (w : Codeword) :
    (commandResponse cfg (decCommand w)).block = decBlock cfg w := Response.block_ofBlock _

/-! ### Whole-image compression and decompression (R36 to R38) -/

/-- The bytes of a compressed raster are those of its blocks' codewords, in stream order. -/
theorem compress_of_wellFormed (cfg : Config) {r : Raster} (hr : r.wellFormed = true) :
    compress cfg r = .ok ((r.blocks.map (encBlock cfg)).map codewordBytes).flatten := by
  obtain ⟨heven, hlength⟩ := Raster.wellFormed_iff.mp hr
  simp [compress, compressCommands, heven, hlength, containerOfResponses, Except.map, codeword_encCommand,
    Function.comp_def]

theorem length_codewordBytes_of_wellFormed (cfg : Config) {r : Raster} (hr : r.wellFormed = true) :
    ((r.blocks.map (encBlock cfg)).map codewordBytes).flatten.length = r.width * r.height := by
  obtain ⟨heven, -⟩ := Raster.wellFormed_iff.mp hr
  rw [length_flatten_codewordBytes, List.length_map, Raster.length_blocks, four_mul_codewordCount heven]

theorem compress_of_not_evenDimensions (cfg : Config) {r : Raster} (h : evenDimensions r.width r.height = false) :
    compress cfg r = .error .oddDimensions := by
  simp [compress, compressCommands, h, Except.map]

/-- A container of the right size gives the raster of its decoded codewords. -/
theorem decompress_flatten (cfg : Config) {width height : Nat} {ws : List Codeword}
    (heven : evenDimensions width height = true)
    (hlength : (ws.map codewordBytes).flatten.length = width * height) :
    decompress cfg width height (ws.map codewordBytes).flatten =
      .ok (rasterOfBlocks width height (ws.map (decBlock cfg))) := by
  rw [decompress, decompressCommands, if_pos heven, if_pos hlength, codewordsOfBytes_flatten]
  simp [Except.map, rasterOfResponses, block_decCommand, Function.comp_def]

/-- Settles O57: a codeword of four bytes for each block, and the dimensions are checked first. -/
theorem containerSize : Obligations.ContainerSize := by
  refine ⟨fun cfg r hr => ⟨_, compress_of_wellFormed cfg hr, length_codewordBytes_of_wellFormed cfg hr, ?_⟩,
    fun cfg r hodd => compress_of_not_evenDimensions cfg ?_⟩
  · rw [codewordsOfBytes_flatten, List.length_map, Raster.length_blocks, codewordCount]
  · rw [← Bool.not_eq_true, evenDimensions_iff]
    omega

/-- Settles O59: the codewords are read back from the bytes, and each is decoded in its place. -/
theorem decompressOfCompress : Obligations.DecompressOfCompress := by
  intro cfg r hr
  obtain ⟨heven, -⟩ := Raster.wellFormed_iff.mp hr
  refine ⟨_, compress_of_wellFormed cfg hr, ?_⟩
  rw [decompress_flatten cfg heven (length_codewordBytes_of_wellFormed cfg hr), List.map_map]
  rfl

end Sys2Proof.Machine

/-! PROOFS. The command word of 30 (R40 to R44, R50): the decoder and the encoder by their two branches, and the readings of
slices; from them O1 to O6. -/

namespace Sys2Proof

/-! ### Slices of a word -/

/-- A slice of a slice is a slice of the word. -/
theorem extractLsb'_extractLsb' {n start len start' len' : Nat} (x : BitVec n) (h : start + len ≤ len') :
    (x.extractLsb' start' len').extractLsb' start len = x.extractLsb' (start' + start) len := by
  apply BitVec.eq_of_getLsbD_eq
  intro i hi
  simp [BitVec.getLsbD_extractLsb', show start + i < len' by omega, Nat.add_assoc]

theorem extractLsb'_eq_ofNat {n : Nat} (x : BitVec n) (start len : Nat) :
    x.extractLsb' start len = BitVec.ofNat len (x.toNat / 2 ^ start) := by
  rw [BitVec.extractLsb', Nat.shiftRight_eq_div_pow]

theorem extractLsb'_toNat_eq {n : Nat} (x : BitVec n) (start len : Nat) :
    (x.extractLsb' start len).toNat = x.toNat / 2 ^ start % 2 ^ len := by
  rw [BitVec.extractLsb'_toNat, Nat.shiftRight_eq_div_pow]

/-! ### The decoder by the op bit (R41) -/

theorem decode_of_op_zero {c : CommandWord} (h : commandOp c = 0) :
    decode c = .enc (payloadPixel (commandData c) 0) (payloadPixel (commandData c) 1) (payloadPixel (commandData c) 2)
      (payloadPixel (commandData c) 3) := if_pos h

theorem decode_of_op_one {c : CommandWord} (h : commandOp c = 1) :
    decode c = .dec ((commandData c).extractLsb' 32 64) ((commandData c).extractLsb' 0 32) :=
  if_neg (by rw [h]; decide)

theorem commandOp_encode_enc (p0 p1 p2 p3 : Pixel) : commandOp (encode (.enc p0 p1 p2 p3)) = 0 :=
  commandOp_append _ _ rfl

theorem commandData_encode_enc (p0 p1 p2 p3 : Pixel) :
    commandData (encode (.enc p0 p1 p2 p3)) = (Machine.Block.mk p0 p1 p2 p3).toPayload := commandData_append _ _ rfl

theorem commandOp_encode_dec (u : BitVec 64) (w : Codeword) : commandOp (encode (.dec u w)) = 1 :=
  commandOp_append _ _ rfl

theorem commandData_encode_dec (u : BitVec 64) (w : Codeword) : commandData (encode (.dec u w)) = u ++ w :=
  commandData_append _ _ rfl

/-- Settles O1, by the two commands: the op bit selects the branch of the decoder, and the payload of each is read back. -/
theorem decodeOfEncodeIsTheCommand : Obligations.DecodeOfEncodeIsTheCommand := by
  intro i
  cases i with
  | enc p0 p1 p2 p3 =>
    obtain ⟨h0, h1, h2, h3⟩ := Machine.payloadPixel_toPayload ⟨p0, p1, p2, p3⟩
    rw [decode_of_op_zero (commandOp_encode_enc p0 p1 p2 p3), commandData_encode_enc, h0, h1, h2, h3]
  | dec u w =>
    rw [decode_of_op_one (commandOp_encode_dec u w), commandData_encode_dec]
    exact congrArg₂ Instr.dec BitVec.extractLsb'_append_eq_left BitVec.extractLsb'_append_eq_right

/-! ### The encoder of what was decoded (R50) -/

theorem Pixel.toBits_ofBits (v : BitVec 24) : (Pixel.ofBits v).toBits = v := by
  rw [Pixel.toBits, Pixel.ofBits, BitVec.extractLsb'_append_extractLsb'_eq_extractLsb' (rfl : 16 = 8 + 8),
    BitVec.extractLsb'_append_extractLsb'_eq_extractLsb' (rfl : 8 = 0 + 8)]
  exact BitVec.extractLsb'_eq_self

theorem payloadOfPixels_payloadPixel (d : Payload) :
    payloadOfPixels (payloadPixel d 0) (payloadPixel d 1) (payloadPixel d 2) (payloadPixel d 3) = d := by
  simp only [payloadOfPixels, payloadPixel, Pixel.toBits_ofBits]
  rw [BitVec.extractLsb'_append_extractLsb'_eq_extractLsb' (rfl : 24 * (3 - 0) = 24 * (3 - 1) + 24),
    BitVec.extractLsb'_append_extractLsb'_eq_extractLsb' (rfl : 24 * (3 - 1) = 24 * (3 - 2) + 24),
    BitVec.extractLsb'_append_extractLsb'_eq_extractLsb' (rfl : 24 * (3 - 2) = 24 * (3 - 3) + 24)]
  exact BitVec.extractLsb'_eq_self

/-- Settles O2: in either branch the payload is put together from its slices, and the word from its op bit and its
payload. -/
theorem encodeOfDecodeIsTheWord : Obligations.EncodeOfDecodeIsTheWord := by
  intro c
  have hword := append_commandOp_commandData c rfl
  rcases BitVec.eq_zero_or_eq_one (commandOp c) with h | h
  · rw [decode_of_op_zero h, encode, payloadOfPixels_payloadPixel]
    rwa [h] at hword
  · rw [decode_of_op_one h, encode]
    rw [h] at hword
    exact (congrArg (fun d : Payload => (1#1 ++ d).cast rfl) BitVec.extractLsb'_append_extractLsb').trans hword

/-! ### Field positions (R43, R44) -/

theorem getLsbD_96_eq (c : CommandWord) : c.getLsbD 96 = (commandOp c == 1) := BitVec.getLsbD_eq_extractLsb' c 96

theorem commandOp_eq_one_of_bit96 {c : CommandWord} (h : c.getLsbD 96 = true) : commandOp c = 1 := by
  rw [getLsbD_96_eq] at h
  exact beq_iff_eq.mp h

theorem commandOp_eq_zero_of_not_bit96 {c : CommandWord} (h : c.getLsbD 96 = false) : commandOp c = 0 := by
  rw [getLsbD_96_eq] at h
  exact (BitVec.eq_zero_or_eq_one _).resolve_right (beq_eq_false_iff_ne.mp h)

/-- The samples of the pixel at block position `k` of a command word. -/
theorem payloadPixel_commandData (c : CommandWord) {k : Nat} (hk : k ≤ 3) :
    payloadPixel (commandData c) k =
      ⟨BitVec.ofNat 8 (c.toNat / 2 ^ (24 * (3 - k) + 16)), BitVec.ofNat 8 (c.toNat / 2 ^ (24 * (3 - k) + 8)),
       BitVec.ofNat 8 (c.toNat / 2 ^ (24 * (3 - k)))⟩ := by
  rw [payloadPixel, commandData, extractLsb'_extractLsb' c (by omega), Pixel.ofBits]
  rw [extractLsb'_extractLsb' c (by decide), extractLsb'_extractLsb' c (by decide), extractLsb'_extractLsb' c (by decide)]
  simp only [extractLsb'_eq_ofNat, Nat.zero_add, Nat.add_zero]

/-- Settles O3: bit 96 is the op bit, and each sample is a slice of the word. -/
theorem encWordFieldPositions : Obligations.EncWordFieldPositions := by
  refine fun c => ⟨fun h => ⟨_, _, decode_of_op_one (commandOp_eq_one_of_bit96 h)⟩, fun h => ?_⟩
  rw [decode_of_op_zero (commandOp_eq_zero_of_not_bit96 h)]
  simp [payloadPixel_commandData]

theorem Machine.execPayload_one (cfg : Config) (d : Payload) :
    Machine.execPayload cfg 1 d = (Machine.decBlock cfg (d.extractLsb' 0 32)).toPayload := rfl

/-- Settles O4: the low payload bits are the low bits of the word, each field is a slice of them, and the meaning of a `DEC`
reads no other bit. -/
theorem decWordFieldPositionsAndIgnoredBits : Obligations.DecWordFieldPositionsAndIgnoredBits := by
  refine ⟨fun c h => ⟨_, _, decode_of_op_one (commandOp_eq_one_of_bit96 h), ?_⟩, fun cfg d d' h => ?_, fun u u' w s => ?_⟩
  · have hlow : (commandData c).extractLsb' 0 32 = c.extractLsb' 0 32 :=
      BitVec.extractLsb'_extractLsb'_of_le (by decide)
    have hfield : ∀ start len : Nat, start + len ≤ 32 →
        ((c.extractLsb' 0 32).extractLsb' start len).toNat = c.toNat / 2 ^ start % 2 ^ len := fun start len hle => by
      rw [BitVec.extractLsb'_extractLsb'_of_le hle, extractLsb'_toNat_eq]
    rw [hlow]
    exact ⟨by simp [extractLsb'_eq_ofNat], hfield 23 9 (by decide), hfield 18 5 (by decide), hfield 13 5 (by decide),
      hfield 8 5 (by decide), hfield 4 4 (by decide), (hfield 0 4 (by decide)).trans (by rw [pow_zero, Nat.div_one])⟩
  · rw [Machine.execPayload_one, Machine.execPayload_one, h]
  · rw [Machine.exec_eq_hold, Machine.exec_eq_hold]
    rfl

/-! ### The opcode table (30 section 5) -/

theorem Instr.row_selects_encode (i : Instr) : i.row.selects (encode i) = true := by
  cases i with
  | enc p0 p1 p2 p3 => exact Laws.MatchesRow.enc p0 p1 p2 p3
  | dec u w => exact Laws.MatchesRow.dec u w

theorem Instr.row_mem_opcodeTable (i : Instr) : i.row ∈ opcodeTable := by
  cases i <;> simp [Instr.row, opcodeTable]

/-- The rows have one mask and different patterns. -/
theorem opcodeTable_rows_differ_by_pattern : ∀ row ∈ opcodeTable, ∀ row' ∈ opcodeTable,
    row.mask = row'.mask ∧ (row.pattern = row'.pattern → row = row') := by decide

theorem eq_of_selects_of_selects {row row' : OpcodeRow} {c : CommandWord} (hrow : row ∈ opcodeTable)
    (hrow' : row' ∈ opcodeTable) (h : row.selects c = true) (h' : row'.selects c = true) : row = row' := by
  obtain ⟨hmask, heq⟩ := opcodeTable_rows_differ_by_pattern row hrow row' hrow'
  simp only [OpcodeRow.selects, beq_iff_eq] at h h'
  exact heq (by rw [← h, ← h', hmask])

/-- Settles O5: the word is the encoding of what it decodes to (O2), so the row of that command selects it, and no other row
does. -/
theorem oneOpcodeRowSelectsEachWord : Obligations.OneOpcodeRowSelectsEachWord := by
  intro c row hrow
  have hsel : (decode c).row.selects c = true := by
    simpa only [encodeOfDecodeIsTheWord c] using (decode c).row_selects_encode
  exact ⟨fun h => eq_of_selects_of_selects hrow (decode c).row_mem_opcodeTable h hsel, fun h => h ▸ hsel⟩

/-- Settles O6: the decoder evaluated on three closed words. -/
theorem writtenOutWordsDecode : Obligations.WrittenOutWordsDecode :=
  ⟨by decide, by decide, by decide⟩

end Sys2Proof

/-! PROOFS. The fields of the codeword and the response word of 30 (R45 to R49, R52): what each holds as a number, and the
reserved pattern of the signed fields; from them O7, O8, O36, O41 and, with the cases of an edge, O50. -/

namespace Sys2Proof.Machine

/-! ### Fields of a declared width (R47, R48) -/

theorem toNat_trunc (n : Nat) (v : Int) : ((trunc n v).toNat : Int) = v % 2 ^ n := by
  rw [trunc, BitVec.toNat_ofInt, Int.toNat_of_nonneg (Int.emod_nonneg v (by positivity))]
  norm_cast

theorem toNat_trunc_of_range {n : Nat} {v : Int} (h0 : 0 ≤ v) (h1 : v < 2 ^ n) : ((trunc n v).toNat : Int) = v := by
  rw [toNat_trunc, Int.emod_eq_of_lt h0 h1]

theorem zext_trunc {n : Nat} {v : Int} (h0 : 0 ≤ v) (h1 : v < 2 ^ n) : zext (trunc n v) = v := toNat_trunc_of_range h0 h1

/-- The sign extension of the model is the library's two's complement reading. -/
theorem sext5_eq_toInt (v : BitVec 5) : sext5 v = v.toInt := by
  revert v; decide

theorem sext5_trunc {v : Int} (h0 : -16 ≤ v) (h1 : v ≤ 15) : sext5 (trunc 5 v) = v := by
  rw [sext5_eq_toInt, trunc, BitVec.toInt_ofInt]
  exact Int.bmod_eq_of_le (by norm_num; exact h0) (by norm_num; omega)

/-- Settles O8: the width cuts to the remainder, which a value in range is, or is 32 above. -/
theorem fieldEncodings : Obligations.FieldEncodings := by
  refine ⟨fun n v h0 h1 => ⟨toNat_trunc_of_range h0 h1, zext_trunc h0 h1⟩, fun v h0 h1 => ⟨sext5_trunc h0 h1, ?_⟩⟩
  rw [toNat_trunc]
  omega

/-! ### The codeword (R46, R52) -/

theorem toNat_append_eq {m n : Nat} (x : BitVec m) (y : BitVec n) : (x ++ y).toNat = x.toNat * 2 ^ n + y.toNat := by
  rw [BitVec.toNat_append, ← Nat.shiftLeft_add_eq_or_of_lt y.isLt, Nat.shiftLeft_eq]

theorem toNat_pack (f : Fields) :
    (pack f).toNat = f.a.toNat * 2 ^ 23 + f.b.toNat * 2 ^ 18 + f.c.toNat * 2 ^ 13 + f.d.toNat * 2 ^ 8 +
      f.pb.toNat * 2 ^ 4 + f.pr.toNat := by
  simp only [pack, toNat_append_eq]
  ring

@[simp] theorem unpack_pack (f : Fields) : unpack (pack f) = f := by
  have field {n : Nat} (v : BitVec n) (start : Nat) (h : (pack f).toNat / 2 ^ start % 2 ^ n = v.toNat) :
      (pack f).extractLsb' start n = v := BitVec.eq_of_toNat_eq ((extractLsb'_toNat_eq _ _ _).trans h)
  rw [toNat_pack] at field
  rw [unpack, field f.a 23 (by omega), field f.b 18 (by omega), field f.c 13 (by omega), field f.d 8 (by omega),
    field f.pb 4 (by omega), field f.pr 0 (by omega)]

/-- The codeword of any six integers: each field is cut to its width. -/
theorem toNat_pack_ofInts (a b c d pb pr : Int) :
    ((pack (Fields.ofInts a b c d pb pr)).toNat : Int) =
      a % 2 ^ 9 * 2 ^ 23 + b % 2 ^ 5 * 2 ^ 18 + c % 2 ^ 5 * 2 ^ 13 + d % 2 ^ 5 * 2 ^ 8 + pb % 2 ^ 4 * 2 ^ 4 + pr % 2 ^ 4 := by
  rw [toNat_pack]
  simp [Fields.ofInts, toNat_trunc]

theorem toInts_ofInts {a b c d pb pr : Int} (ha0 : 0 ≤ a) (ha1 : a ≤ 511) (hb0 : -16 ≤ b) (hb1 : b ≤ 15) (hc0 : -16 ≤ c)
    (hc1 : c ≤ 15) (hd0 : -16 ≤ d) (hd1 : d ≤ 15) (hpb0 : 0 ≤ pb) (hpb1 : pb ≤ 15) (hpr0 : 0 ≤ pr) (hpr1 : pr ≤ 15) :
    (Fields.ofInts a b c d pb pr).toInts = (a, b, c, d, pb, pr) := by
  simp only [Fields.toInts, Fields.ofInts]
  rw [zext_trunc ha0 (by omega), sext5_trunc hb0 hb1, sext5_trunc hc0 hc1, sext5_trunc hd0 hd1,
    zext_trunc hpb0 (by omega), zext_trunc hpr0 (by omega)]

/-- The codeword that R52 writes as a sum is the packed one; the sum reduces `b`, `c` and `d` itself, and the width `a`. -/
theorem decfWord_eq_pack {pb pr : Int} (a b c d : Int) (hpb0 : 0 ≤ pb) (hpb1 : pb ≤ 15)
    (hpr0 : 0 ≤ pr) (hpr1 : pr ≤ 15) : decfWord a b c d pb pr = pack (Fields.ofInts a b c d pb pr) := by
  apply BitVec.eq_of_toNat_eq
  apply Int.ofNat_inj.mp
  rw [toNat_pack_ofInts, decfWord]
  refine (toNat_trunc 32 _).trans ?_
  omega

/-- Settles O7: in range, the sum of the rule is the packed word of the operands, whose fields read back as they are. -/
theorem shorthandsExpand : Obligations.ShorthandsExpand := by
  refine ⟨fun _ _ _ _ => rfl, fun a b c d pb pr ha0 ha1 hb0 hb1 hc0 hc1 hd0 hd1 hpb0 hpb1 hpr0 hpr1 =>
    ⟨decfWord a b c d pb pr, ?_, ?_⟩⟩
  · simp [Shorthand.expand, Shorthand.wellFormed, inRange, *]
  · rw [decfWord_eq_pack a b c d hpb0 hpb1 hpr0 hpr1, unpack_pack, toNat_pack_ofInts]
    exact ⟨by omega, toInts_ofInts ha0 ha1 hb0 hb1 hc0 hc1 hd0 hd1 hpb0 hpb1 hpr0 hpr1⟩

/-! ### The reserved pattern of the signed fields (R49) -/

/-- `q_ac` rounds first or clamps first, with the same result. -/
theorem qAc_eq_clamp (x : Rat) : qAc x = clamp (roundAway (x * 50)) (-15) 15 := by
  obtain ⟨-, hcommute⟩ := clampSaturatesAndCommutesWithRounding
  rw [← hcommute x 50 (-15) 15 (by decide) (by decide), qAc]
  norm_num [acClamp, acScale]

theorem qAc_range (x : Rat) : -15 ≤ qAc x ∧ qAc x ≤ 15 := by
  rw [qAc_eq_clamp]
  exact ⟨le_clamp (by decide), clamp_le (by decide)⟩

theorem trunc_qAc_ne_reserved (x : Rat) : trunc 5 (qAc x) ≠ 16 := by
  intro h
  obtain ⟨hlow, hhigh⟩ := qAc_range x
  have hsext := sext5_trunc (by omega : -16 ≤ qAc x) hhigh
  rw [h, show sext5 16 = -16 by decide] at hsext
  omega

theorem encBlock_ne_reserved (cfg : Config) (k : Block) :
    (unpack (encBlock cfg k)).b ≠ 16 ∧ (unpack (encBlock cfg k)).c ≠ 16 ∧ (unpack (encBlock cfg k)).d ≠ 16 := by
  rw [encBlock, unpack_pack]
  exact ⟨trunc_qAc_ne_reserved _, trunc_qAc_ne_reserved _, trunc_qAc_ne_reserved _⟩

/-- The clamp of `dq_ac` takes -16 to the value of -15. -/
theorem dqAc_reserved : dqAc (sext5 16) = dqAc (sext5 17) := by
  have h16 : dqAc (-16) = -acClamp := clamp_of_lt (by norm_num [acClamp, acScale])
  have h15 : dqAc (-15) = -acClamp := by
    have hexact : ((-15 : Int) : Rat) / acScale = -acClamp := by norm_num [acClamp, acScale]
    rw [dqAc, hexact, clamp_of_mem le_rfl (by norm_num [acClamp])]
  exact h16.trans h15.symm

/-- Settles O36: `q_ac` stays within -15..15 for every rational, and `DEC` reads a signed field through `dq_ac` only. -/
theorem reservedFieldValue : Obligations.ReservedFieldValue := by
  refine ⟨encBlock_ne_reserved, fun cfg f => ?_⟩
  simp only [decBlock, unpack_pack, decLumas, dqAc_reserved, and_self]

/-! ### The response word (R45) -/

theorem Response.toNat_word (r : Response) : r.word.toNat = r.op.toNat * 2 ^ 96 + r.data.toNat := by
  rw [Response.word, BitVec.toNat_cast, toNat_append_eq]

theorem toNat_toBits (p : Pixel) : p.toBits.toNat = p.r.toNat * 2 ^ 16 + p.g.toNat * 2 ^ 8 + p.b.toNat := by
  simp only [Pixel.toBits, toNat_append_eq]
  ring

theorem Block.toNat_toPayload (k : Block) :
    k.toPayload.toNat = k.p0.toBits.toNat * 2 ^ 72 + k.p1.toBits.toNat * 2 ^ 48 + k.p2.toBits.toNat * 2 ^ 24 +
      k.p3.toBits.toNat := by
  simp only [Block.toPayload, payloadOfPixels, toNat_append_eq]
  ring

theorem Response.toNat_word_ofCodeword (w : Codeword) : (Response.ofCodeword w).word.toNat = w.toNat := by
  rw [Response.toNat_word, Response.ofCodeword, BitVec.toNat_setWidth_of_le (by decide)]
  simp

theorem Response.toNat_word_ofBlock (k : Block) : (Response.ofBlock k).word.toNat = 2 ^ 96 + k.toPayload.toNat := by
  simp [Response.toNat_word, Response.ofBlock]

/-- Settles O41: the op bit and the payload as numbers, the payload of a `DEC` pixel by pixel and sample by sample. -/
theorem responseWordLayout : Obligations.ResponseWordLayout := by
  refine ⟨fun cfg p0 p1 p2 p3 => Response.toNat_word_ofCodeword _, fun cfg u w =>
    (Response.toNat_word_ofBlock (decBlock cfg w)).trans ?_⟩
  simp only [Block.toNat_toPayload, toNat_toBits]
  ring

/-! ### The register invariant over an edge (R10, R20, R45, R49) -/

theorem Response.ofCodeword_high (w : Codeword) : (Response.ofCodeword w).data.extractLsb' 32 64 = 0 := by
  apply BitVec.eq_of_toNat_eq
  rw [extractLsb'_toNat_eq, Response.ofCodeword, BitVec.toNat_setWidth_of_le (by decide), Nat.div_eq_of_lt w.isLt]
  rfl

/-- The response of any command, once in the register, is formed, by the tables of any build. -/
theorem State.hold_commandResponse_registerFormed (cfg : Config) (i : Instr) (s : State) :
    (s.hold (commandResponse cfg i)).RegisterFormed := by
  intro hop
  cases i with
  | enc p0 p1 p2 p3 =>
    have hfields := encBlock_ne_reserved cfg ⟨p0, p1, p2, p3⟩
    rw [← Response.codeword_ofCodeword (encBlock cfg ⟨p0, p1, p2, p3⟩)] at hfields
    exact ⟨Response.ofCodeword_high _, hfields⟩
  | dec u w => exact absurd hop (by decide : (1 : BitVec 1) ≠ 0)

theorem State.hold_commandResponse_inv (i : Instr) (s : State) : (s.hold (commandResponse defaults i)).Inv :=
  ⟨s.hold_commandResponse_registerFormed defaults i, fun _ => ⟨i, rfl⟩⟩

/-- Settles O50, by the cases of an edge: a reset clears, an accepted command writes its response, and the other two edges
keep the op bit and the payload. -/
theorem stepKeepsTheRegisterFormed : Obligations.StepKeepsTheRegisterFormed := by
  intro s t hinv hstep
  obtain ⟨hformed, hholds⟩ := hinv
  rcases step_cases hstep with ⟨-, rfl⟩ | ⟨-, -, rfl⟩ | ⟨-, -, -, rfl⟩ | ⟨-, -, -, rfl⟩
  · exact s.advance.clear_inv
  · exact s.advance.hold_commandResponse_inv s.command
  · exact ⟨hformed, fun hvalid => absurd hvalid Bool.false_ne_true⟩
  · exact ⟨hformed, hholds⟩

end Sys2Proof.Machine

/-! PROOFS. The Color Space Converter of 40 (R60 to R66): the linear form of a matrix row under the constraints of R6, the
rounded and clamped channel as a number, and the integer forms of the default tables; from them O14 to O18. -/

namespace Sys2Proof

/-! ### The linear form of a row (R6, R65) -/

theorem Row3.dot_self (m : Row3) (v : Rat) : m.dot v v v = (m.x + m.y + m.z) * v := by
  rw [Row3.dot]
  ring

/-- A term of a row at an operand in [0,1] stays between its negative and its positive part. -/
theorem min_le_mul_and_mul_le_max (c : Rat) {v : Rat} (h0 : 0 ≤ v) (h1 : v ≤ 1) : min c 0 ≤ c * v ∧ c * v ≤ max c 0 := by
  rcases le_total 0 c with hc | hc
  · rw [min_eq_right hc, max_eq_left hc]
    exact ⟨mul_nonneg hc h0, mul_le_of_le_one_right hc h1⟩
  · rw [min_eq_left hc, max_eq_right hc]
    exact ⟨le_mul_of_le_one_right hc h1, mul_nonpos_of_nonpos_of_nonneg hc h0⟩

section
variable {x y z : Rat} (hx0 : 0 ≤ x) (hx1 : x ≤ 1) (hy0 : 0 ≤ y) (hy1 : y ≤ 1) (hz0 : 0 ≤ z) (hz1 : z ≤ 1)
include hx0 hx1 hy0 hy1 hz0 hz1

/-- The positive parts bound a row's value from above, and the negative parts from below. -/
theorem Row3.dot_range (m : Row3) : min m.x 0 + min m.y 0 + min m.z 0 ≤ m.dot x y z ∧
    m.dot x y z ≤ max m.x 0 + max m.y 0 + max m.z 0 := by
  obtain ⟨hlx, hux⟩ := min_le_mul_and_mul_le_max m.x hx0 hx1
  obtain ⟨hly, huy⟩ := min_le_mul_and_mul_le_max m.y hy0 hy1
  obtain ⟨hlz, huz⟩ := min_le_mul_and_mul_le_max m.z hz0 hz1
  exact ⟨add_le_add (add_le_add hlx hly) hlz, add_le_add (add_le_add hux huy) huz⟩

theorem Row3.IsLuma.dot_range {m : Row3} (h : m.IsLuma) : 0 ≤ m.dot x y z ∧ m.dot x y z ≤ 1 := by
  obtain ⟨hmx, hmy, hmz, hsum⟩ := h
  have hrange := m.dot_range hx0 hx1 hy0 hy1 hz0 hz1
  rwa [min_eq_right hmx, min_eq_right hmy, min_eq_right hmz, max_eq_left hmx, max_eq_left hmy, max_eq_left hmz, hsum,
    add_zero, add_zero] at hrange

theorem Row3.IsChroma.abs_dot_le {m : Row3} (h : m.IsChroma) : |m.dot x y z| ≤ 1 / 2 := by
  obtain ⟨-, hpos, hneg⟩ := h
  obtain ⟨hlow, hhigh⟩ := m.dot_range hx0 hx1 hy0 hy1 hz0 hz1
  exact abs_le.mpr ⟨hneg.trans hlow, hhigh.trans hpos⟩

end

/-- The rows of a matrix product, as the composition of the two linear maps. -/
theorem Mat3.mul_dot (m n : Mat3) (x y z : Rat) :
    ((m.mul n).row0.dot x y z = m.row0.dot (n.row0.dot x y z) (n.row1.dot x y z) (n.row2.dot x y z)) ∧
    ((m.mul n).row1.dot x y z = m.row1.dot (n.row0.dot x y z) (n.row1.dot x y z) (n.row2.dot x y z)) ∧
    ((m.mul n).row2.dot x y z = m.row2.dot (n.row0.dot x y z) (n.row1.dot x y z) (n.row2.dot x y z)) := by
  simp only [Mat3.mul, Row3.dot]
  exact ⟨by ring, by ring, by ring⟩

end Sys2Proof

namespace Sys2Proof.Machine

/-! ### `csc_fwd` (R60, R62) -/

theorem sample_range (v : Sample) : (0 : Rat) ≤ v.toNat ∧ (v.toNat : Rat) ≤ 255 :=
  ⟨Nat.cast_nonneg _, by exact_mod_cast Nat.le_of_lt_succ v.isLt⟩

theorem normalise_range (v : Sample) : 0 ≤ normalise v ∧ normalise v ≤ 1 := by
  obtain ⟨h0, h1⟩ := sample_range v
  exact ⟨div_nonneg h0 (by decide), div_le_one_of_le₀ h1 (by decide)⟩

theorem cscFwd_range {cfg : Config} (hcfg : cfg.Valid) (p : Pixel) :
    0 ≤ (cscFwd cfg p).y ∧ (cscFwd cfg p).y ≤ 1 ∧ |(cscFwd cfg p).cb| ≤ 1 / 2 ∧ |(cscFwd cfg p).cr| ≤ 1 / 2 := by
  obtain ⟨hluma, hcb, hcr, -⟩ := hcfg
  obtain ⟨hr0, hr1⟩ := normalise_range p.r
  obtain ⟨hg0, hg1⟩ := normalise_range p.g
  obtain ⟨hb0, hb1⟩ := normalise_range p.b
  obtain ⟨hy0, hy1⟩ := hluma.dot_range hr0 hr1 hg0 hg1 hb0 hb1
  exact ⟨hy0, hy1, hcb.abs_dot_le hr0 hr1 hg0 hg1 hb0 hb1, hcr.abs_dot_le hr0 hr1 hg0 hg1 hb0 hb1⟩

/-- On a grey each row is its sum times the value, and R6 fixes the three sums. -/
theorem cscFwd_grey {cfg : Config} (hcfg : cfg.Valid) (v : Sample) :
    cscFwd cfg ⟨v, v, v⟩ = ⟨(v.toNat : Rat) / 255, 0, 0⟩ := by
  obtain ⟨⟨-, -, -, hluma⟩, ⟨hcb, -⟩, ⟨hcr, -⟩, -⟩ := hcfg
  simp only [cscFwd, Row3.dot_self, hluma, hcb, hcr, one_mul, zero_mul, normalise, sampleMax]

/-- Settles O14: R6 bounds the positive and the negative part of each row, and fixes its sum. -/
theorem cscFwdRangeAndGreys : Obligations.CscFwdRangeAndGreys := fun _ hcfg => ⟨cscFwd_range hcfg, cscFwd_grey hcfg⟩

theorem normalise_eq (v : Sample) : normalise v = (zext v : Rat) / 255 := rfl

theorem cscFwd_defaults (p : Pixel) : cscFwd defaults p =
    ⟨(lumaNum p : Rat) / 255000, (cbNum p : Rat) / 255000000, (crNum p : Rat) / 255000000⟩ := by
  simp only [cscFwd, Row3.dot, normalise_eq, defaults, defaultFwd, lumaNum, cbNum, crNum, ComponentVideo.mk.injEq]
  push_cast
  exact ⟨by ring, by ring, by ring⟩

theorem fwdNums_range (p : Pixel) :
    0 ≤ lumaNum p ∧ lumaNum p ≤ 255000 ∧ |cbNum p| ≤ 127500000 ∧ |crNum p| ≤ 127500000 := by
  have hr := zext_range p.r
  have hg := zext_range p.g
  have hb := zext_range p.b
  simp only [abs_le, lumaNum, cbNum, crNum]
  omega

/-- Settles O15: the denominators of the matrix entries and of the normalisation, taken out of each row. -/
theorem cscFwdIntegerForm : Obligations.CscFwdIntegerForm := by
  refine ⟨fun p => ?_, by decide⟩
  rw [cscFwd_defaults]
  exact ⟨rfl, rfl, rfl, fwdNums_range p⟩

/-! ### `csc_inv` (R63, R66) -/

/-- The 8 bits of a sample hold the clamped value without loss. -/
theorem zext_toSample (v : Rat) : zext (toSample v) = clamp (roundAway v) 0 255 :=
  zext_trunc (le_clamp (by decide)) ((clamp_le (by decide)).trans_lt (by decide))

/-- Settles O16: each channel is a sample of its row, and rounding fixes the bounds 0 and 255. -/
theorem cscInvRoundsThenClamps : Obligations.CscInvRoundsThenClamps := fun _ _ _ _ =>
  ⟨zext_toSample _, zext_toSample _, zext_toSample _,
    fun v => (roundAway_clamp (by decide : (0 : Int) ≤ 255) v).symm⟩

theorem floor_div_add_half (n : Int) {d : Int} (hd : 0 < d) : ⌊(n : Rat) / d + 1 / 2⌋ = (2 * n + d) / (2 * d) := by
  lift d to ℕ using hd.le
  have hd' : (d : Rat) ≠ 0 := by exact_mod_cast hd.ne'
  have hquot : (n : Rat) / (d : Int) + 1 / 2 = ((2 * n + d : Int) : Rat) / (2 * d : ℕ) := by
    push_cast
    field_simp
  rw [hquot, Rat.floor_intCast_div_natCast, Nat.cast_mul, Nat.cast_ofNat]

/-- `rdiv` is rounding in integers only (R66): the two have the same branches, by the sign of the numerator. -/
theorem rdiv_eq_roundAway (n : Int) {d : Int} (hd : 0 < d) : rdiv n d = roundAway ((n : Rat) / d) := by
  have hd' : (0 : Rat) < d := by exact_mod_cast hd
  have hsign : 0 ≤ (n : Rat) / d ↔ 0 ≤ n := by rw [le_div_iff₀ hd', zero_mul, Int.cast_nonneg_iff]
  have hneg : -((n : Rat) / d) = ((-n : Int) : Rat) / d := by push_cast; ring
  simp only [rdiv, roundAway, hsign, hneg, floor_div_add_half _ hd]

theorem toSample_div (n : Int) {d : Int} (hd : 0 < d) :
    toSample ((n : Rat) / d) = trunc 8 (clamp (rdiv n d) 0 255) := by
  rw [toSample, rdiv_eq_roundAway n hd]

/-- The three channels over the denominators of R66. -/
theorem cscInv_defaults (ln pbk prk : Int) :
    cscInv defaults ⟨(ln : Rat) / 25550, (pbk : Rat) / 1000, (prk : Rat) / 1000⟩ = pixelNum ln pbk prk := by
  simp only [pixelNum, ← toSample_div _ (by decide : (0 : Int) < 511000000),
    ← toSample_div _ (by decide : (0 : Int) < 511000000000), cscInv, Row3.dot, defaults, defaultInv, sampleMax, rNum, gNum,
    bNum, Pixel.mk.injEq]
  push_cast
  exact ⟨by congr 1; ring, by congr 1; ring, by congr 1; ring⟩

theorem kTable_range (i : Fin 16) : -350 ≤ kTable[i] ∧ kTable[i] ≤ 350 := by
  revert i; decide

/-- The luma numerators over all field records, with each of `b`, `c` and `d` clamped to -15..15. -/
theorem lumaNums_range {f : Fields} {l : Int}
    (hl : l ∈ [(lumaNums f).l0, (lumaNums f).l1, (lumaNums f).l2, (lumaNums f).l3]) : -22995 ≤ l ∧ l ≤ 48545 := by
  have ha := zext_range f.a
  have hac (v : Int) : -15 ≤ clamp v (-acMax) acMax ∧ clamp v (-acMax) acMax ≤ 15 :=
    ⟨le_clamp (by decide), clamp_le (by decide)⟩
  have hb := hac (sext5 f.b)
  have hc := hac (sext5 f.c)
  have hd := hac (sext5 f.d)
  simp only [lumaNums, List.mem_cons, List.not_mem_nil, or_false] at hl
  rcases hl with rfl | rfl | rfl | rfl <;> omega

/-- Settles O17: the integer form channel by channel, and its numerators at the bounds of `LN`, `PBK` and `PRK`. -/
theorem cscInvIntegerForm : Obligations.CscInvIntegerForm := by
  refine ⟨cscInv_defaults, fun f l i j hl => ?_⟩
  have hln := lumaNums_range hl
  have hpbk := kTable_range i
  have hprk := kTable_range j
  simp only [rNum, gNum, bNum]
  omega

/-! ### The round trip of the default pair (R65) -/

theorem defaults_mul : defaults.invMatrix.mul defaults.fwdMatrix =
    ⟨⟨1, -9 / 15625000, 9 / 15625000⟩,
     ⟨129 / 976562500, 1953125081 / 1953125000, -339 / 1953125000⟩,
     ⟨-3 / 15625000, 3 / 15625000, 1⟩⟩ := by
  simp only [Mat3.mul, Row3.dot, defaults, defaultInv, defaultFwd]
  norm_num

/-- The real channel values after both matrices are the product matrix on the samples, which is close to the identity. -/
theorem defaults_deviation (p : Pixel) :
    let v := cscFwd defaults p
    |255 * defaults.invMatrix.row0.dot v.y v.cb v.cr - p.r.toNat| < 1 / 2000 ∧
    |255 * defaults.invMatrix.row1.dot v.y v.cb v.cr - p.g.toNat| < 1 / 2000 ∧
    |255 * defaults.invMatrix.row2.dot v.y v.cb v.cr - p.b.toNat| < 1 / 2000 := by
  obtain ⟨h0, h1, h2⟩ := Mat3.mul_dot defaults.invMatrix defaults.fwdMatrix (normalise p.r) (normalise p.g) (normalise p.b)
  obtain ⟨hr0, hr1⟩ := sample_range p.r
  obtain ⟨hg0, hg1⟩ := sample_range p.g
  obtain ⟨hb0, hb1⟩ := sample_range p.b
  simp only [cscFwd]
  rw [← h0, ← h1, ← h2, defaults_mul]
  simp only [Row3.dot, normalise, sampleMax, abs_lt]
  refine ⟨⟨?_, ?_⟩, ⟨?_, ?_⟩, ?_, ?_⟩ <;> linarith

/-- A value less than 1/2 from an integer rounds to it. -/
theorem roundAway_eq_of_abs_sub_lt {q : Rat} {n : Int} (h : |q - n| < 1 / 2) : roundAway q = n := by
  have hlt : |((roundAway q - n : Int) : Rat)| < 1 := by
    push_cast
    linarith [abs_sub_le (roundAway q : Rat) q n, abs_roundAway_sub_le q]
  exact sub_eq_zero.mp (Int.abs_lt_one_iff.mp (by exact_mod_cast hlt))

theorem toSample_eq_of_abs_sub_lt {q : Rat} {v : Sample} (h : |q - v.toNat| < 1 / 2) : toSample q = v := by
  obtain ⟨h0, h1⟩ := zext_range v
  have hround : roundAway q = zext v := roundAway_eq_of_abs_sub_lt h
  apply BitVec.eq_of_toNat_eq
  apply Int.ofNat_inj.mp
  calc ((toSample q).toNat : Int) = clamp (roundAway q) 0 255 := zext_toSample q
    _ = clamp (zext v) 0 255 := by rw [hround]
    _ = zext v := clamp_of_mem h0 (Int.le_of_lt_add_one h1)

/-- Settles O18: the deviation of the product matrix on a sample is far below the 1/2 that changes a rounding. -/
theorem defaultColorRoundTrip : Obligations.DefaultColorRoundTrip := by
  refine ⟨defaults_mul, defaults_deviation, fun p => ?_⟩
  obtain ⟨hr, hg, hb⟩ := defaults_deviation p
  have hsmall : (1 / 2000 : Rat) < 1 / 2 := by norm_num
  rw [cscInv, Pixel.mk.injEq]
  exact ⟨toSample_eq_of_abs_sub_lt (hr.trans hsmall), toSample_eq_of_abs_sub_lt (hg.trans hsmall),
    toSample_eq_of_abs_sub_lt (hb.trans hsmall)⟩

end Sys2Proof.Machine

/-! PROOFS. The 2×2 block transform of 41 (R70 to R74): the two transforms as linear maps, their integer forms over the common
denominators of R74, and from them O19 to O22. -/

namespace Sys2Proof.Machine

/-! ### The two linear maps (R70 to R72) -/

theorem btInv_btFwd (y : Lumas) : btInv (btFwd y) = y := by
  obtain ⟨y0, y1, y2, y3⟩ := y
  rw [btInv, btFwd, Lumas.mk.injEq]
  exact ⟨by ring, by ring, by ring, by ring⟩

theorem btFwd_btInv (k : Coeffs) : btFwd (btInv k) = k := by
  obtain ⟨a, b, c, d⟩ := k
  rw [btFwd, btInv, Coeffs.mk.injEq]
  exact ⟨by ring, by ring, by ring, by ring⟩

/-- Settles O19: each composition is the identity coordinate by coordinate. -/
theorem transformsAreInverse : Obligations.TransformsAreInverse := ⟨btInv_btFwd, btFwd_btInv⟩

theorem btFwd_flat (v : Rat) : btFwd ⟨v, v, v, v⟩ = ⟨v, 0, 0, 0⟩ := by
  rw [btFwd, Coeffs.mk.injEq]
  exact ⟨by ring, by ring, by ring, by ring⟩

/-- Settles O20: the DC term is the mean of the lumas, and each AC term a quarter of two of them less the other two. -/
theorem btFwdRanges : Obligations.BtFwdRanges := by
  refine ⟨fun y h00 h01 h10 h11 h20 h21 h30 h31 => ?_, btFwd_flat⟩
  simp only [btFwd, abs_le]
  refine ⟨?_, ?_, ⟨?_, ?_⟩, ⟨?_, ?_⟩, ?_, ?_⟩ <;> linarith

/-! ### The inverse quantizers on field values, as integers over their scales (R82, R83, R86) -/

theorem dqDc_eq_div {v : Int} (h0 : 0 ≤ v) (h1 : v ≤ 511) : dqDc v = (v : Rat) / 511 := by
  have h0' : (0 : Rat) ≤ v := Int.cast_nonneg h0
  have h1' : (v : Rat) ≤ 511 := by exact_mod_cast h1
  exact clamp_of_mem (div_nonneg h0' (by decide)) (div_le_one_of_le₀ h1' (by decide))

theorem clamp_intCast {lo hi : Int} (hle : lo ≤ hi) (v : Int) : clamp (v : Rat) lo hi = (clamp v lo hi : Int) := by
  rw [clamp_eq_max_min (Int.cast_le.mpr hle), clamp_eq_max_min hle, Int.cast_max, Int.cast_min]

/-- The bounds ±3/10 are ±15 over the scale 50, so the clamp acts on the integer. -/
theorem dqAc_eq_div (v : Int) : dqAc v = (clamp v (-acMax) acMax : Int) / 50 := by
  have hle : (-15 : Int) ≤ 15 := by decide
  have hclamp : dqAc v = clamp ((v : Rat) / 50) (((-15 : Int) : Rat) / 50) (((15 : Int) : Rat) / 50) := by
    norm_num [dqAc, acClamp, acScale]
  rw [hclamp, acMax, ← clamp_intCast hle]
  apply eq_div_of_mul_eq (by decide)
  rw [clamp_div_mul (Int.cast_le.mpr hle) (by decide), div_mul_cancel₀ _ (by decide)]

/-! ### The integer forms and their ranges (R73, R74) -/

theorem btFwd_div (y0 y1 y2 y3 : Int) :
    btFwd ⟨(y0 : Rat) / 255000, (y1 : Rat) / 255000, (y2 : Rat) / 255000, (y3 : Rat) / 255000⟩ =
      ⟨((coeffNums y0 y1 y2 y3).an : Rat) / 1020000, ((coeffNums y0 y1 y2 y3).bn : Rat) / 1020000,
       ((coeffNums y0 y1 y2 y3).cn : Rat) / 1020000, ((coeffNums y0 y1 y2 y3).dn : Rat) / 1020000⟩ := by
  rw [btFwd, coeffNums, Coeffs.mk.injEq]
  push_cast
  exact ⟨by ring, by ring, by ring, by ring⟩

theorem lumaNum_range (p : Pixel) : 0 ≤ lumaNum p ∧ lumaNum p ≤ 255000 := by
  obtain ⟨h0, h1, -⟩ := fwdNums_range p
  exact ⟨h0, h1⟩

theorem coeffNums_range (k : Block) :
    let t := coeffNums (lumaNum k.p0) (lumaNum k.p1) (lumaNum k.p2) (lumaNum k.p3)
    0 ≤ t.an ∧ t.an ≤ 1020000 ∧ |t.bn| ≤ 510000 ∧ |t.cn| ≤ 510000 ∧ |t.dn| ≤ 510000 := by
  have h0 := lumaNum_range k.p0
  have h1 := lumaNum_range k.p1
  have h2 := lumaNum_range k.p2
  have h3 := lumaNum_range k.p3
  simp only [coeffNums, abs_le]
  omega

/-- The lumas of `DEC` over 511 · 50. -/
theorem decLumas_eq_div (f : Fields) :
    decLumas f = ⟨((lumaNums f).l0 : Rat) / 25550, ((lumaNums f).l1 : Rat) / 25550,
      ((lumaNums f).l2 : Rat) / 25550, ((lumaNums f).l3 : Rat) / 25550⟩ := by
  obtain ⟨h0, h1⟩ := zext_range f.a
  rw [decLumas, dqDc_eq_div h0 (Int.le_of_lt_add_one h1)]
  simp only [dqAc_eq_div, btInv, lumaNums, Lumas.mk.injEq]
  push_cast
  exact ⟨by ring, by ring, by ring, by ring⟩

/-- Settles O22: the coefficients over 4 · 255000, and the lumas of `DEC` over 511 · 50. -/
theorem transformIntegerForms : Obligations.TransformIntegerForms :=
  ⟨btFwd_div, coeffNums_range, fun f => ⟨decLumas_eq_div f, fun _ => lumaNums_range⟩⟩

theorem div_range_of_lumaNum_range {l : Int} (h : -22995 ≤ l ∧ l ≤ 48545) :
    -(9 / 10) ≤ (l : Rat) / 25550 ∧ (l : Rat) / 25550 ≤ 19 / 10 := by
  obtain ⟨hlow, hhigh⟩ := h
  have hlow' : (-22995 : Rat) ≤ l := by exact_mod_cast hlow
  have hhigh' : (l : Rat) ≤ 48545 := by exact_mod_cast hhigh
  constructor <;> linarith

/-- All three AC fields at a bound, the DC field at the same end: the fourth luma adds the four terms. -/
theorem lumaNums_bounds_reached :
    (lumaNums (unpack 0xFFBDEF88#32)).l3 = 48545 ∧ (lumaNums (unpack 0x00421088#32)).l3 = -22995 := by decide

/-- Settles O21: the range of the luma numerators, over 25550. -/
theorem decLumaRange : Obligations.DecLumaRange := by
  obtain ⟨hhigh, hlow⟩ := lumaNums_bounds_reached
  simp only [Obligations.DecLumaRange, decLumas_eq_div]
  refine ⟨fun f => ?_, by norm_num [hhigh], by norm_num [hlow]⟩
  have hrange {l : Int} (hl : l ∈ [(lumaNums f).l0, (lumaNums f).l1, (lumaNums f).l2, (lumaNums f).l3]) :=
    div_range_of_lumaNum_range (lumaNums_range hl)
  exact ⟨hrange (by simp), hrange (by simp), hrange (by simp), hrange (by simp)⟩

end Sys2Proof.Machine

/-! PROOFS. The coefficient quantizer of 42 (R80 to R86): rounding commutes with the clamp at the scales 511 and 50, an
integer over a scale rounds in integers only, and from them O23 to O26. -/

namespace Sys2Proof.Machine

/-! ### The forward quantizers (R80, R81) -/

theorem qDc_eq_clamp (a : Rat) : qDc a = clamp (roundAway (a * 511)) 0 511 := by
  obtain ⟨-, hcommute⟩ := clampSaturatesAndCommutesWithRounding
  rw [← hcommute a 511 0 511 (by decide) (by decide), qDc]
  norm_num [dcScale]

theorem qDc_range (a : Rat) : 0 ≤ qDc a ∧ qDc a ≤ 511 := by
  rw [qDc_eq_clamp]
  exact ⟨le_clamp (by decide), clamp_le (by decide)⟩

/-- A clamp to an interval symmetric about 0 is symmetric in the sign. -/
theorem clamp_neg {b : Rat} (hb : 0 ≤ b) (x : Rat) : clamp (-x) (-b) b = -clamp x (-b) b := by
  have hle : -b ≤ b := neg_le_self hb
  rw [clamp_eq_max_min hle, clamp_eq_max_min hle, max_min_distrib_left, max_eq_right hle, ← min_neg_neg,
    ← max_neg_neg, neg_neg, min_comm, max_comm (-b)]

/-- The defining form with the constants of R4 written out. -/
theorem qAc_eq_roundAway (x : Rat) : qAc x = roundAway (clamp x (-(3 / 10)) (3 / 10) * 50) := rfl

theorem qAc_neg (x : Rat) : qAc (-x) = -qAc x := by
  rw [qAc_eq_roundAway, clamp_neg (by norm_num), neg_mul, roundAway_neg, ← qAc_eq_roundAway]

/-- Settles O23: the defining forms with their constants, the commuting of clamp and rounding at the scales 511 and 50, and
the sign symmetry of both. -/
theorem quantizersRoundThenClamp : Obligations.QuantizersRoundThenClamp := by
  refine ⟨fun a => ⟨rfl, ?_, qDc_range a⟩, fun x => ?_⟩
  · rw [qDc_eq_clamp, mul_comm]
  · obtain ⟨hlow, hhigh⟩ := qAc_range x
    exact ⟨qAc_eq_roundAway x, by rw [qAc_eq_clamp, mul_comm], hlow, hhigh, qAc_neg x⟩

/-! ### The inverse quantizers (R82, R83) -/

theorem dqAc_range (v : Int) : -(3 / 10) ≤ dqAc v ∧ dqAc v ≤ 3 / 10 := by
  have hle : -(3 / 10 : Rat) ≤ 3 / 10 := by norm_num
  exact ⟨le_clamp hle, clamp_le hle⟩

/-- Settles O24: both as integers over their scales, where -16 is clamped to -15. -/
theorem dequantizersOnFieldValues : Obligations.DequantizersOnFieldValues := by
  refine ⟨fun a h0 h1 => ⟨dqDc_eq_div h0 h1, le_clamp (by decide), clamp_le (by decide)⟩,
    fun x _ _ => ⟨dqAc_eq_div x, dqAc_range x⟩, ?_, ?_⟩
  · rw [dqAc_eq_div, clamp_of_lt (by decide)]
    norm_num [acMax]
  · rw [dqAc_eq_div, clamp_of_mem (by decide) (by decide)]
    norm_num

/-! ### Quantizing and dequantizing (R84) -/

theorem qDc_of_mem {a : Rat} (h0 : 0 ≤ a) (h1 : a ≤ 1) : qDc a = roundAway (a * 511) := by
  rw [qDc, clamp_of_mem h0 h1, dcScale]

theorem qAc_of_abs_le {x : Rat} (h : |x| ≤ 3 / 10) : qAc x = roundAway (x * 50) := by
  obtain ⟨hlow, hhigh⟩ := abs_le.mp h
  rw [qAc_eq_roundAway, clamp_of_mem hlow hhigh]

theorem qAc_of_gt {x : Rat} (h : 3 / 10 < x) : qAc x = 15 := by
  have hbound : (3 / 10 * 50 : Rat) = (15 : Int) := by norm_num
  rw [qAc_eq_roundAway, clamp_of_gt (by norm_num) h, hbound, roundAway_intCast]

theorem dqDc_qDc (a : Rat) : dqDc (qDc a) = (qDc a : Rat) / 511 := by
  obtain ⟨h0, h1⟩ := qDc_range a
  exact dqDc_eq_div h0 h1

theorem dqAc_of_mem {v : Int} (h0 : -15 ≤ v) (h1 : v ≤ 15) : dqAc v = (v : Rat) / 50 := by
  rw [dqAc_eq_div, acMax, clamp_of_mem h0 h1]

theorem dqAc_qAc (x : Rat) : dqAc (qAc x) = (qAc x : Rat) / 50 := by
  obtain ⟨h0, h1⟩ := qAc_range x
  exact dqAc_of_mem h0 h1

/-- Rounding at a scale is off by at most half a step of that scale. -/
theorem abs_roundAway_mul_div_sub_le (x : Rat) {s : Rat} (hs : 0 < s) :
    |(roundAway (x * s) : Rat) / s - x| ≤ 1 / 2 / s := by
  calc |(roundAway (x * s) : Rat) / s - x| = |(roundAway (x * s) - x * s) / s| := by
        rw [sub_div, mul_div_cancel_right₀ _ hs.ne']
    _ = |(roundAway (x * s) : Rat) - x * s| / s := by rw [abs_div, abs_of_pos hs]
    _ ≤ 1 / 2 / s := div_le_div_of_nonneg_right (abs_roundAway_sub_le _) hs.le

/-- Beyond the bound the result is the bound; below 0 by the sign symmetry of `q_ac`. -/
theorem abs_dqAc_qAc_sub_of_lt_abs {x : Rat} (h : 3 / 10 < |x|) : |dqAc (qAc x) - x| = |x| - 3 / 10 := by
  rw [dqAc_qAc]
  rcases lt_abs.mp h with hx | hx
  · rw [qAc_of_gt hx, abs_sub_comm, abs_of_pos (by linarith), abs_of_pos (by linarith)]
    norm_num
  · have hneg : qAc x = -15 := by rw [← qAc_of_gt hx, qAc_neg, neg_neg]
    rw [hneg, abs_of_pos (by push_cast; linarith), abs_of_neg (by linarith)]
    push_cast
    ring

theorem qDc_dqDc {n : Int} (h0 : 0 ≤ n) (h1 : n ≤ 511) : qDc (dqDc n) = n := by
  rw [qDc_eq_clamp, dqDc_eq_div h0 h1, div_mul_cancel₀ _ (by decide), roundAway_intCast, clamp_of_mem h0 h1]

/-- On every integer: the grid values come back, and the others as the nearer bound. -/
theorem qAc_dqAc (n : Int) : qAc (dqAc n) = clamp n (-15) 15 := by
  rw [qAc_eq_clamp, dqAc_eq_div, div_mul_cancel₀ _ (by decide), roundAway_intCast]
  exact clamp_of_mem (le_clamp (by decide)) (clamp_le (by decide))

/-- Settles O25: half a step of 1/511 and of 1/50 in range, the distance to the bound beyond it, and the grid values. -/
theorem quantizerErrorBounds : Obligations.QuantizerErrorBounds := by
  refine ⟨fun a h0 h1 => ?_, fun x h => ?_, fun x => abs_dqAc_qAc_sub_of_lt_abs, fun n => qDc_dqDc,
    fun n h0 h1 => ?_, qAc_dqAc (-16)⟩
  · rw [dqDc_qDc, qDc_of_mem h0 h1]
    exact (abs_roundAway_mul_div_sub_le a (by decide)).trans_eq (by norm_num)
  · rw [dqAc_qAc, qAc_of_abs_le h]
    exact (abs_roundAway_mul_div_sub_le x (by decide)).trans_eq (by norm_num)
  · rw [qAc_dqAc, clamp_of_mem h0 h1]

/-! ### The integer forms (R86) -/

/-- `rdiv` by an even divisor adds half of it and divides. -/
theorem rdiv_two_mul (n h : Int) :
    rdiv n (2 * h) = if 0 ≤ n then (n + h) / (2 * h) else -((-n + h) / (2 * h)) := by
  simp only [rdiv, ← mul_add, Int.mul_ediv_mul_of_pos _ _ (by decide : (0 : Int) < 2)]

theorem qDc_div {an : Int} (h0 : 0 ≤ an) (h1 : an ≤ 1020000) : qDc ((an : Rat) / 1020000) = qDcNum an := by
  have h0' : (0 : Rat) ≤ an := Int.cast_nonneg h0
  have h1' : (an : Rat) ≤ 1020000 := by exact_mod_cast h1
  have hscale : (an : Rat) / 1020000 * 511 = ((511 * an : Int) : Rat) / (1020000 : Int) := by push_cast; ring
  rw [qDc_of_mem (div_nonneg h0' (by decide)) (div_le_one_of_le₀ h1' (by decide)), hscale,
    ← rdiv_eq_roundAway _ (by decide)]
  exact (rdiv_two_mul _ 510000).trans (if_pos (by omega))

theorem clamp_intCast_div {lo hi s : Int} (hle : lo ≤ hi) (hs : 0 < s) (v : Int) :
    clamp ((v : Rat) / s) (lo / s) (hi / s) = (clamp v lo hi : Int) / s := by
  have hs' : (0 : Rat) < s := Int.cast_pos.mpr hs
  rw [eq_div_iff hs'.ne', clamp_div_mul (Int.cast_le.mpr hle) hs', div_mul_cancel₀ _ hs'.ne', clamp_intCast hle]

/-- The bounds ±3/10 are ±306000 over 1020000, so the clamp acts on the numerator. -/
theorem clamp_div_acClamp (xn : Int) :
    clamp ((xn : Rat) / 1020000) (-acClamp) acClamp = (clamp xn (-306000) 306000 : Int) / 1020000 := by
  convert clamp_intCast_div (by decide : (-306000 : Int) ≤ 306000) (by decide : (0 : Int) < 1020000) xn using 2 <;>
    norm_num [acClamp]

theorem qAc_div (xn : Int) : qAc ((xn : Rat) / 1020000) = qAcNum xn := by
  have hscale (c : Int) : (c : Rat) / 1020000 * acScale = (c : Rat) / (20400 : Int) := by
    rw [acScale]; push_cast; ring
  rw [qAc, clamp_div_acClamp, hscale, ← rdiv_eq_roundAway _ (by decide)]
  exact rdiv_two_mul _ 10200

/-- 511 is coprime to 1020000, so `AN = 510000` is the one tie in range. -/
theorem qDcNum_tie_iff {an : Int} (h0 : 0 ≤ an) (h1 : an ≤ 1020000) :
    (511 * an) % 1020000 = 510000 ↔ an = 510000 := by
  omega

theorem dqDc_zext (v : BitVec 9) : dqDc (zext v) = (zext v : Rat) / 511 := by
  obtain ⟨h0, h1⟩ := zext_range v
  exact dqDc_eq_div h0 (Int.le_of_lt_add_one h1)

/-- Settles O26: both scaled numerators round by `rdiv`, and the inverses are integers over 511 and 50. -/
theorem quantizerIntegerForms : Obligations.QuantizerIntegerForms :=
  ⟨fun _ h0 h1 => ⟨qDc_div h0 h1, qDcNum_tie_iff h0 h1⟩, qAc_div, fun f => dqDc_zext f.a,
    fun v => dqAc_eq_div (sext5 v)⟩

end Sys2Proof.Machine

/-! PROOFS. The chroma quantizer of 43 (R90 to R95): the scan answers the lowest nearest entry, a midpoint lies below the
clamped value exactly if its lower entry lies below the index, and from them O27 to O30. -/

namespace Sys2Proof.Machine

/-! ### The mean (R90) -/

/-- Settles O27: a quarter of the sum, so a quarter of the sum of the bounds. -/
theorem chromaMeanInRange : Obligations.ChromaMeanInRange := by
  refine ⟨fun _ _ _ _ => mul_div_cancel₀ _ (by decide), fun v0 v1 v2 v3 h0 h1 h2 h3 => ?_, fun v => ?_⟩
  · rw [abs_le] at *
    rw [chromaMean]
    constructor <;> linarith
  · rw [chromaMean]
    ring

/-! ### The index of a nearest entry (R92) -/

/-- Among the candidates `js`, entry `r` is nearest to `x`, and strictly nearer than every candidate of a lower index. -/
def IsLowestNearest (cfg : Config) (x : Rat) (js : List (Fin 16)) (r : Fin 16) : Prop :=
  ∀ j ∈ js, lutDistance cfg x r ≤ lutDistance cfg x j ∧ (j < r → lutDistance cfg x r < lutDistance cfg x j)

/-- Over increasing candidates the scan drops the best so far only for a strictly nearer one, and passes over a later one only
if it is no nearer than the best. -/
theorem scanNearest_isLowestNearest (cfg : Config) (x : Rat) (best : Fin 16) (rest : List (Fin 16))
    (hsorted : (best :: rest).Pairwise (· < ·)) : IsLowestNearest cfg x (best :: rest) (scanNearest cfg x best rest) := by
  induction rest generalizing best with
  | nil =>
    intro j hj
    obtain rfl := List.mem_singleton.mp hj
    exact ⟨le_rfl, fun h => absurd h (lt_irrefl _)⟩
  | cons i rest ih =>
    obtain ⟨hbest, htail⟩ := List.pairwise_cons.mp hsorted
    rw [scanNearest]
    split_ifs with hcloser
    · have hi := ih i htail
      intro j hj
      rcases List.mem_cons.mp hj with rfl | hj
      · have hlt := (hi i List.mem_cons_self).1.trans_lt hcloser
        exact ⟨hlt.le, fun _ => hlt⟩
      · exact hi j hj
    · have hb := ih best (hsorted.sublist ((List.sublist_cons_self i rest).cons_cons best))
      have hfar := not_lt.mp hcloser
      obtain ⟨hle, hlt⟩ := hb best List.mem_cons_self
      intro j hj
      rcases List.mem_cons.mp hj with rfl | hj
      · exact ⟨hle, hlt⟩
      rcases List.mem_cons.mp hj with rfl | hj
      · exact ⟨hle.trans hfar, fun hr => (hlt ((hbest j List.mem_cons_self).trans hr)).trans_le hfar⟩
      · exact hb j (List.mem_cons_of_mem _ hj)

/-- The scan runs over the sixteen indices in increasing order. -/
theorem indexOfChroma_isLowestNearest (cfg : Config) (x : Rat) :
    IsLowestNearest cfg (clamp x (-(1 / 2)) (1 / 2)) (List.finRange 16) (indexOfChroma cfg x) :=
  scanNearest_isLowestNearest cfg _ 0 _ (by decide)

theorem lutDistance_indexOfChroma_le (cfg : Config) (x : Rat) (j : Fin 16) :
    lutDistance cfg (clamp x (-(1 / 2)) (1 / 2)) (indexOfChroma cfg x) ≤
      lutDistance cfg (clamp x (-(1 / 2)) (1 / 2)) j :=
  (indexOfChroma_isLowestNearest cfg x j (List.mem_finRange j)).1

theorem lutDistance_indexOfChroma_lt {cfg : Config} {x : Rat} {j : Fin 16} (hj : j < indexOfChroma cfg x) :
    lutDistance cfg (clamp x (-(1 / 2)) (1 / 2)) (indexOfChroma cfg x) <
      lutDistance cfg (clamp x (-(1 / 2)) (1 / 2)) j :=
  (indexOfChroma_isLowestNearest cfg x j (List.mem_finRange j)).2 hj

/-- The higher of two entries is strictly nearer exactly beyond their midpoint. -/
theorem lutDistance_lt_lutDistance_iff {cfg : Config} {i j : Fin 16} (hij : chromaOfIndex cfg i < chromaOfIndex cfg j)
    (x : Rat) : lutDistance cfg x j < lutDistance cfg x i ↔ (chromaOfIndex cfg i + chromaOfIndex cfg j) / 2 < x := by
  have hdiff (a b : Rat) : (x - a) ^ 2 - (x - b) ^ 2 = 2 * (b - a) * (x - (a + b) / 2) := by ring
  have hpos : 0 < 2 * (chromaOfIndex cfg j - chromaOfIndex cfg i) := by linarith
  calc lutDistance cfg x j < lutDistance cfg x i
      ↔ 0 < (x - chromaOfIndex cfg i) ^ 2 - (x - chromaOfIndex cfg j) ^ 2 := by rw [sub_pos, sq_lt_sq]; rfl
    _ ↔ (chromaOfIndex cfg i + chromaOfIndex cfg j) / 2 < x := by
      rw [hdiff, mul_pos_iff_of_pos_left hpos, sub_pos]

/-- If the index lies above `j`, its entry is strictly nearer than entry `j`; if the midpoint of the entries `j` and `j + 1`
lies below the value, entry `j + 1` is strictly nearer than entry `j` and all below it. -/
theorem castSucc_lt_indexOfChroma_iff {cfg : Config} (hmono : StrictMono (chromaOfIndex cfg)) (x : Rat) (j : Fin 15) :
    j.castSucc < indexOfChroma cfg x ↔
      (chromaOfIndex cfg j.castSucc + chromaOfIndex cfg j.succ) / 2 < clamp x (-(1 / 2)) (1 / 2) := by
  constructor
  · intro hj
    have hnear := (lutDistance_lt_lutDistance_iff (hmono hj) _).mp (lutDistance_indexOfChroma_lt hj)
    have hsucc := hmono.monotone (Fin.castSucc_lt_iff_succ_le.mp hj)
    linarith
  · intro hmid
    by_contra hj
    have hle := hmono.monotone (not_lt.mp hj)
    have hnear := lutDistance_indexOfChroma_le cfg x j.succ
    rw [← not_lt, lutDistance_lt_lutDistance_iff (hle.trans_lt (hmono j.castSucc_lt_succ))] at hnear
    linarith

theorem length_filter_castSucc_lt (r : Fin 16) : ((List.finRange 15).filter fun j => j.castSucc < r).length = r.val := by
  revert r; decide

theorem indexOfChroma_eq_count {cfg : Config} (hmono : StrictMono (chromaOfIndex cfg)) (x : Rat) :
    (indexOfChroma cfg x).val = ((List.finRange 15).filter fun j =>
      (chromaOfIndex cfg j.castSucc + chromaOfIndex cfg j.succ) / 2 < clamp x (-(1 / 2)) (1 / 2)).length := by
  simp only [← castSucc_lt_indexOfChroma_iff hmono, length_filter_castSucc_lt]

theorem clamp_le_clamp {α : Type} [LinearOrder α] {x x' lo hi : α} (hle : lo ≤ hi) (hx : x ≤ x') :
    clamp x lo hi ≤ clamp x' lo hi := by
  rw [clamp_eq_max_min hle, clamp_eq_max_min hle]
  exact max_le_max_left _ (min_le_min_right _ hx)

/-- Every midpoint below the lower value is below the higher one. -/
theorem indexOfChroma_monotone {cfg : Config} (hmono : StrictMono (chromaOfIndex cfg)) : Monotone (indexOfChroma cfg) := by
  intro x x' hx
  refine le_of_forall_lt fun i hi => ?_
  obtain ⟨j, rfl⟩ := Fin.exists_castSucc_eq.mpr (hi.trans_le (Fin.le_last _)).ne
  rw [castSucc_lt_indexOfChroma_iff hmono] at hi ⊢
  exact hi.trans_le (clamp_le_clamp (by norm_num) hx)

/-- Settles O28: the lowest nearest entry of the scan, and the midpoints counted up to the index. -/
theorem indexIsLowestNearestAndCountsMidpoints : Obligations.IndexIsLowestNearestAndCountsMidpoints := by
  refine ⟨fun _ _ j => ⟨lutDistance_indexOfChroma_le _ _ j, lutDistance_indexOfChroma_lt⟩, fun cfg hlut => ?_⟩
  have hmono : StrictMono (chromaOfIndex cfg) := hlut
  exact ⟨indexOfChroma_eq_count hmono, fun _ _ hx => indexOfChroma_monotone hmono hx⟩

/-! ### Grid values and errors (R94) -/

/-- The way from `x` to a point between the bounds passes through the clamped value. -/
theorem abs_sub_eq_abs_clamp_sub_add {x lo hi m : Rat} (hlo : lo ≤ m) (hhi : m ≤ hi) :
    |x - m| = |clamp x lo hi - m| + |x - clamp x lo hi| := by
  rcases lt_or_ge x lo with h | h
  · rw [clamp_of_lt h, abs_of_nonpos (by linarith), abs_of_nonpos (by linarith), abs_of_nonpos (by linarith)]
    ring
  rcases lt_or_ge hi x with h' | h'
  · rw [clamp_of_gt (hlo.trans hhi) h', abs_of_nonneg (by linarith), abs_of_nonneg (by linarith),
      abs_of_nonneg (by linarith)]
    ring
  · rw [clamp_of_mem h h', sub_self, abs_zero, add_zero]

/-- With all entries in range, the entry nearest to the clamped value is nearest to the value itself. -/
theorem abs_chromaOfIndex_indexOfChroma_sub_le {cfg : Config} (hcfg : cfg.LutValid) (x : Rat) (j : Fin 16) :
    |chromaOfIndex cfg (indexOfChroma cfg x) - x| ≤ |chromaOfIndex cfg j - x| := by
  have hsplit (i : Fin 16) : |chromaOfIndex cfg i - x| =
      lutDistance cfg (clamp x (-(1 / 2)) (1 / 2)) i + |x - clamp x (-(1 / 2)) (1 / 2)| := by
    obtain ⟨hlow, hhigh⟩ := hcfg.2 i
    rw [abs_sub_comm]
    exact abs_sub_eq_abs_clamp_sub_add hlow hhigh
  rw [hsplit, hsplit]
  exact add_le_add_left (lutDistance_indexOfChroma_le cfg x j) _

theorem indexOfChroma_chromaOfIndex {cfg : Config} (hcfg : cfg.LutValid) (i : Fin 16) :
    indexOfChroma cfg (chromaOfIndex cfg i) = i := by
  have hmono : StrictMono (chromaOfIndex cfg) := hcfg.1
  have hnear := abs_chromaOfIndex_indexOfChroma_sub_le hcfg (chromaOfIndex cfg i) i
  rw [sub_self, abs_zero, abs_nonpos_iff, sub_eq_zero] at hnear
  exact hmono.injective hnear

theorem chromaOfIndex_defaults (i : Fin 16) : chromaOfIndex defaults i = (kTable[i] : Rat) / 1000 :=
  Vector.getElem_map _ i.isLt

theorem abs_chromaOfIndex_defaults_le (i : Fin 16) : |chromaOfIndex defaults i| ≤ 35 / 100 := by
  obtain ⟨hlow, hhigh⟩ := kTable_range i
  have hlow' : (-350 : Rat) ≤ kTable[i] := by exact_mod_cast hlow
  have hhigh' : (kTable[i] : Rat) ≤ 350 := by exact_mod_cast hhigh
  rw [chromaOfIndex_defaults, abs_le]
  constructor <;> linarith

theorem kTable_lt_kTable {i j : Fin 16} (hij : i < j) : kTable[i] < kTable[j] := by
  revert i j; decide

theorem defaults_lutValid : defaults.LutValid := by
  refine ⟨fun i j hij => ?_, fun i => ?_⟩
  · change chromaOfIndex defaults i < chromaOfIndex defaults j
    rw [chromaOfIndex_defaults, chromaOfIndex_defaults]
    exact div_lt_div_of_pos_right (Int.cast_lt.mpr (kTable_lt_kTable hij)) (by decide)
  · exact abs_le.mp ((abs_chromaOfIndex_defaults_le i).trans (by norm_num))

theorem kTable_rev (i : Fin 16) : kTable[i.rev] = -kTable[i] := by
  revert i; decide

/-- The default table is symmetric about 0, so its error is bounded by the distance of any entry from the magnitude. -/
theorem abs_default_error_le (x : Rat) (j : Fin 16) :
    |chromaOfIndex defaults (indexOfChroma defaults x) - x| ≤ |(kTable[j] / 1000 - |x| : Rat)| := by
  have hnear := abs_chromaOfIndex_indexOfChroma_sub_le defaults_lutValid x
  rcases le_total 0 x with hx | hx
  · rw [abs_of_nonneg hx, ← chromaOfIndex_defaults]
    exact hnear j
  · have hrev : |chromaOfIndex defaults j.rev - x| = |(kTable[j] / 1000 - |x| : Rat)| := by
      rw [chromaOfIndex_defaults, kTable_rev, abs_of_nonpos hx, ← abs_neg]
      push_cast
      ring_nf
    exact (hnear j.rev).trans_eq hrev

theorem abs_default_error_le_of_near {x e : Rat} {k : Int} (j : Fin 16) (hk : kTable[j] = k)
    (hlow : (k : Rat) / 1000 - e ≤ |x|) (hhigh : |x| ≤ k / 1000 + e) :
    |chromaOfIndex defaults (indexOfChroma defaults x) - x| ≤ e := by
  refine (abs_default_error_le x j).trans ?_
  rw [hk, abs_le]
  constructor <;> linarith

/-- The widest gap of the default table, from 200 to 350 thousandths, is 150; near 0 the entry 55 serves up to 125. -/
theorem abs_default_error_le_of_abs_le {x : Rat} (h : |x| ≤ 35 / 100) :
    |chromaOfIndex defaults (indexOfChroma defaults x) - x| ≤ 75 / 1000 := by
  have hx := abs_nonneg x
  rcases le_total |x| (125 / 1000) with h55 | h55
  · refine abs_default_error_le_of_near 10 (k := 55) rfl ?_ ?_ <;> push_cast <;> linarith
  rcases le_total |x| (275 / 1000) with h200 | h200
  · refine abs_default_error_le_of_near 14 (k := 200) rfl ?_ ?_ <;> push_cast <;> linarith
  · refine abs_default_error_le_of_near 15 (k := 350) rfl ?_ ?_ <;> push_cast <;> linarith

/-- Beyond the table the last entry of the sign is at this distance, and none is nearer. -/
theorem abs_default_error_of_lt_abs {x : Rat} (h : 35 / 100 < |x|) :
    |chromaOfIndex defaults (indexOfChroma defaults x) - x| = |x| - 35 / 100 := by
  apply le_antisymm
  · refine abs_default_error_le_of_near 15 (k := 350) rfl ?_ ?_ <;> push_cast <;> linarith
  · have hentry := abs_chromaOfIndex_defaults_le (indexOfChroma defaults x)
    have htri := abs_sub_abs_le_abs_sub x (chromaOfIndex defaults (indexOfChroma defaults x))
    rw [abs_sub_comm] at htri
    linarith

/-- Settles O29: an entry is nearest to itself, and an entry near each magnitude bounds the errors of the default table; up to
22 thousandths it is the entry 11. -/
theorem chromaGridAndErrors : Obligations.ChromaGridAndErrors := by
  refine ⟨fun _ => indexOfChroma_chromaOfIndex, fun x h => ?_, fun x => abs_default_error_le_of_abs_le,
    fun x => abs_default_error_of_lt_abs⟩
  have hx := abs_nonneg x
  refine abs_default_error_le_of_near 8 (k := 11) rfl ?_ ?_ <;> push_cast <;> linarith

/-! ### The integer form (R95) -/

theorem lt_clamp_iff {α : Type} [LinearOrder α] {x lo hi m : α} (hlo : lo ≤ m) (hhi : m < hi) :
    m < clamp x lo hi ↔ m < x := by
  rw [clamp_eq_max_min (hlo.trans hhi.le), lt_max_iff, lt_min_iff, or_iff_right hlo.not_gt, and_iff_left hhi]

theorem default_midpoint_eq (j : Fin 15) :
    (chromaOfIndex defaults j.castSucc + chromaOfIndex defaults j.succ) / 2 = (threshold j : Rat) / 1020000000 := by
  have hthreshold : threshold j = (kTable[j.castSucc] + kTable[j.succ]) * 510000 := rfl
  rw [hthreshold, chromaOfIndex_defaults, chromaOfIndex_defaults]
  push_cast
  ring

/-- The midpoints lie strictly inside the clamp's bounds, so the clamp does not move a value across one. -/
theorem default_midpoint_lt_clamp_iff (s : Int) (j : Fin 15) :
    (chromaOfIndex defaults j.castSucc + chromaOfIndex defaults j.succ) / 2 <
      clamp ((s : Rat) / 1020000000) (-(1 / 2)) (1 / 2) ↔ threshold j < s := by
  have h0 := abs_le.mp (abs_chromaOfIndex_defaults_le j.castSucc)
  have h1 := abs_le.mp (abs_chromaOfIndex_defaults_le j.succ)
  rw [lt_clamp_iff (by linarith) (by linarith), default_midpoint_eq, div_lt_div_iff_of_pos_right (by decide), Int.cast_lt]

theorem indexOfChroma_defaults_div (s : Int) :
    (indexOfChroma defaults ((s : Rat) / 1020000000)).val = chromaIndexNum s := by
  have hmono : StrictMono (chromaOfIndex defaults) := defaults_lutValid.1
  rw [indexOfChroma_eq_count hmono]
  simp only [default_midpoint_lt_clamp_iff, chromaIndexNum]

theorem chromaMean_div (n0 n1 n2 n3 : Int) :
    chromaMean ((n0 : Rat) / 255000000) ((n1 : Rat) / 255000000) ((n2 : Rat) / 255000000) ((n3 : Rat) / 255000000) =
      ((n0 + n1 + n2 + n3 : Int) : Rat) / 1020000000 := by
  rw [chromaMean]
  push_cast
  ring

theorem abs_sum_chromaNums_le {n0 n1 n2 n3 : Int} (h0 : |n0| ≤ 127500000) (h1 : |n1| ≤ 127500000) (h2 : |n2| ≤ 127500000)
    (h3 : |n3| ≤ 127500000) : |n0 + n1 + n2 + n3| ≤ 510000000 := by
  rw [abs_le] at *
  omega

/-- Settles O30: the midpoints as thresholds over the common denominator, and the chroma numerators of R62 summed. -/
theorem chromaIntegerForm : Obligations.ChromaIntegerForm := by
  refine ⟨indexOfChroma_defaults_div, by decide, by decide, chromaOfIndex_defaults, fun k => ?_⟩
  obtain ⟨-, -, hcb0, hcr0⟩ := fwdNums_range k.p0
  obtain ⟨-, -, hcb1, hcr1⟩ := fwdNums_range k.p1
  obtain ⟨-, -, hcb2, hcr2⟩ := fwdNums_range k.p2
  obtain ⟨-, -, hcb3, hcr3⟩ := fwdNums_range k.p3
  simp only [cscFwd_defaults]
  exact ⟨chromaMean_div _ _ _ _, chromaMean_div _ _ _ _, abs_sum_chromaNums_le hcb0 hcb1 hcb2 hcb3,
    abs_sum_chromaNums_le hcr0 hcr1 hcr2 hcr3⟩

end Sys2Proof.Machine

/-! PROOFS. The bit packer of 44 (R100 to R102): the codeword as a sum, its fields as slices, and the two as inverses; O9 to
O11. -/

namespace Sys2Proof.Machine

/-! ### The codeword of six integers (R100) -/

/-- Settles O9: the width of an unsigned field cuts nothing off an integer in range. -/
theorem packIsTheSumOfShiftedFields : Obligations.PackIsTheSumOfShiftedFields := by
  intro a b c d pb pr ha0 ha1 _ _ _ _ _ _ hpb0 hpb1 hpr0 hpr1
  have ha : a % 2 ^ 9 = a := Int.emod_eq_of_lt ha0 (by omega)
  have hpb : pb % 2 ^ 4 = pb := Int.emod_eq_of_lt hpb0 (by omega)
  have hpr : pr % 2 ^ 4 = pr := Int.emod_eq_of_lt hpr0 (by omega)
  rw [toNat_pack_ofInts, ha, hpb, hpr]
  norm_num

/-! ### The six integers of a codeword (R101) -/

theorem zext_extractLsb' {n : Nat} (x : BitVec n) (start len : Nat) :
    zext (x.extractLsb' start len) = (x.toNat / 2 ^ start % 2 ^ len : Nat) :=
  congrArg Nat.cast (extractLsb'_toNat_eq x start len)

/-- The sign bit of a 5-bit vector is set from 16 on. -/
theorem sext5_eq_ite (v : BitVec 5) : sext5 v = if v.toNat < 16 then (v.toNat : Int) else (v.toNat : Int) - 32 := by
  rw [sext5_eq_toInt, BitVec.toInt_eq_toNat_cond]
  split <;> split <;> omega

theorem sext5_extractLsb' {n : Nat} (x : BitVec n) (start : Nat) :
    sext5 (x.extractLsb' start 5) =
      if x.toNat / 2 ^ start % 32 < 16 then ((x.toNat / 2 ^ start % 32 : Nat) : Int)
      else ((x.toNat / 2 ^ start % 32 : Nat) : Int) - 32 := by
  rw [sext5_eq_ite, extractLsb'_toNat_eq]
  rfl

/-- Settles O10: each field is a slice of the word, read by its sign rule; the top field has no bit of the word above it. -/
theorem unpackReadsEachField : Obligations.UnpackReadsEachField := by
  intro w
  have htop : w.toNat / 2 ^ 23 % 2 ^ 9 = w.toNat / 2 ^ 23 := Nat.mod_eq_of_lt (by omega)
  have hlow : w.toNat / 2 ^ 0 % 2 ^ 4 = w.toNat % 16 := by omega
  exact ⟨(zext_extractLsb' w 23 9).trans (congrArg Nat.cast htop), sext5_extractLsb' w 18, sext5_extractLsb' w 13,
    sext5_extractLsb' w 8, zext_extractLsb' w 4 4, (zext_extractLsb' w 0 4).trans (congrArg Nat.cast hlow)⟩

/-! ### The inverse directions (R102) -/

/-- The six slices are adjacent and cover the word. -/
@[simp] theorem pack_unpack (w : Codeword) : pack (unpack w) = w := by
  rw [pack, unpack, BitVec.extractLsb'_append_extractLsb'_eq_extractLsb' (rfl : 23 = 18 + 5),
    BitVec.extractLsb'_append_extractLsb'_eq_extractLsb' (rfl : 18 = 13 + 5),
    BitVec.extractLsb'_append_extractLsb'_eq_extractLsb' (rfl : 13 = 8 + 5),
    BitVec.extractLsb'_append_extractLsb'_eq_extractLsb' (rfl : 8 = 4 + 4),
    BitVec.extractLsb'_append_extractLsb'_eq_extractLsb' (rfl : 4 = 0 + 4)]
  exact BitVec.extractLsb'_eq_self

/-- Settles O11: the fields are read back from the packed word, and the integers in range from their fields. -/
theorem packAndUnpackAreInverse : Obligations.PackAndUnpackAreInverse := by
  refine ⟨fun a b c d pb pr ha0 ha1 hb0 hb1 hc0 hc1 hd0 hd1 hpb0 hpb1 hpr0 hpr1 => ?_, unpack_pack, pack_unpack⟩
  rw [unpack_pack]
  exact toInts_ofInts ha0 ha1 hb0 hb1 hc0 hc1 hd0 hd1 hpb0 hpb1 hpr0 hpr1

end Sys2Proof.Machine

/-! PROOFS. The two commands of 45 (R110 to R117): the quantized integers and the fields that hold them, the integer forms of
`Enc` and `Dec` put together from those of their stages, flat and grey blocks, and the register after a command; from them
O31 to O35, O37 to O40, O42 and O43. -/

namespace Sys2Proof.Machine

/-! ### The quantized values in their fields (R114) -/

theorem zext_trunc_qDc (q : Rat) : zext (trunc 9 (qDc q)) = qDc q := by
  obtain ⟨h0, h1⟩ := qDc_range q
  exact zext_trunc h0 (Int.lt_add_one_of_le h1)

theorem sext5_trunc_qAc (q : Rat) : sext5 (trunc 5 (qAc q)) = qAc q := by
  obtain ⟨h0, h1⟩ := qAc_range q
  exact sext5_trunc (by omega) h1

theorem zext_trunc_index (i : Fin 16) : zext (trunc 4 (i.val : Int)) = i.val :=
  zext_trunc (Int.natCast_nonneg _) (by exact_mod_cast i.isLt)

/-- Settles O31: the range of each quantizer lies in the range of its field. -/
theorem quantizedValuesFitTheirFields : Obligations.QuantizedValuesFitTheirFields := fun cfg q =>
  ⟨zext_trunc_qDc q, sext5_trunc_qAc q, zext_trunc_index (indexOfChroma cfg q)⟩

/-! ### The fields of `Enc` and the pixels of `Dec` (R110, R111) -/

theorem unpack_encBlock (cfg : Config) (k : Block) : unpack (encBlock cfg k) = encFields cfg k := unpack_pack _

/-- Settles O32: the fields read back from the codeword are those packed, and each holds its quantized value (O31). -/
theorem encFieldsAreTheQuantizedValues : Obligations.EncFieldsAreTheQuantizedValues := by
  intro cfg p0 p1 p2 p3
  simp only [unpack_encBlock, encFields, Fields.toInts, Fields.ofInts, zext_trunc_qDc, sext5_trunc_qAc, zext_trunc_index,
    btFwd, chromaMean]

theorem toFin_trunc_index (i : Fin 16) : (trunc 4 (i.val : Int)).toFin = i := by
  revert i; decide

/-- `Dec` of a packed field record, by the lumas and the two table entries of the fields. -/
theorem decBlock_pack (cfg : Config) (f : Fields) :
    decBlock cfg (pack f) =
      ⟨cscInv cfg ⟨(decLumas f).y0, chromaOfIndex cfg f.pb.toFin, chromaOfIndex cfg f.pr.toFin⟩,
       cscInv cfg ⟨(decLumas f).y1, chromaOfIndex cfg f.pb.toFin, chromaOfIndex cfg f.pr.toFin⟩,
       cscInv cfg ⟨(decLumas f).y2, chromaOfIndex cfg f.pb.toFin, chromaOfIndex cfg f.pr.toFin⟩,
       cscInv cfg ⟨(decLumas f).y3, chromaOfIndex cfg f.pb.toFin, chromaOfIndex cfg f.pr.toFin⟩⟩ := by
  rw [decBlock, unpack_pack]

theorem decLumas_ofInts {a b c d : Int} (pb pr : Int) (ha0 : 0 ≤ a) (ha1 : a ≤ 511) (hb0 : -16 ≤ b) (hb1 : b ≤ 15)
    (hc0 : -16 ≤ c) (hc1 : c ≤ 15) (hd0 : -16 ≤ d) (hd1 : d ≤ 15) :
    decLumas (Fields.ofInts a b c d pb pr) = btInv ⟨dqDc a, dqAc b, dqAc c, dqAc d⟩ := by
  rw [decLumas, Fields.ofInts, zext_trunc ha0 (Int.lt_add_one_of_le ha1), sext5_trunc hb0 hb1, sext5_trunc hc0 hc1,
    sext5_trunc hd0 hd1]

/-- Settles O33: the six integers are read back from the packed word, and the lumas are `bt_inv` of the dequantized four. -/
theorem decPixelsFromFieldValues : Obligations.DecPixelsFromFieldValues := by
  intro cfg a b c d pb pr ha0 ha1 hb0 hb1 hc0 hc1 hd0 hd1
  rw [decBlock_pack, decLumas_ofInts _ _ ha0 ha1 hb0 hb1 hc0 hc1 hd0 hd1]
  simp only [Fields.ofInts, toFin_trunc_index, btInv]

/-! ### The integer realisations for the default tables (R112, R113) -/

theorem encFields_defaults (k : Block) : encFields defaults k = encFieldsNum k := by
  obtain ⟨han0, han1, -⟩ := coeffNums_range k
  simp only [encFields, cscFwd_defaults, btFwd_div, chromaMean_div, qDc_div han0 han1, qAc_div, indexOfChroma_defaults_div,
    encFieldsNum]

/-- Settles O34: each stage over its common denominator, from the pixels to the fields. -/
theorem encIntegerRealisation : Obligations.EncIntegerRealisation := fun k => congrArg pack (encFields_defaults k)

/-- Settles O35: the lumas over 25550 and the table entries over 1000, which `csc_inv` turns into samples in integers. -/
theorem decIntegerRealisation : Obligations.DecIntegerRealisation := fun w => by
  simp only [decBlock, decLumas_eq_div, chromaOfIndex_defaults, cscInv_defaults, decBlockNum]

/-! ### Flat blocks and greys (R117) -/

theorem qAc_zero : qAc 0 = 0 := by
  rw [qAc_of_abs_le (by norm_num), zero_mul]
  exact roundAway_intCast 0

theorem chromaMean_self (v : Rat) : chromaMean v v v v = v := by
  rw [chromaMean]
  ring

/-- On a flat block the AC terms vanish, and the means are the values of the one pixel. -/
theorem encFields_flat (cfg : Config) (p : Pixel) :
    encFields cfg ⟨p, p, p, p⟩ = Fields.ofInts (qDc (cscFwd cfg p).y) 0 0 0
      (indexOfChroma cfg (cscFwd cfg p).cb).val (indexOfChroma cfg (cscFwd cfg p).cr).val := by
  simp only [encFields, btFwd_flat, qAc_zero, chromaMean_self]

/-- With no AC terms the four lumas are the DC term. -/
theorem btInv_dc (a : Rat) : btInv ⟨a, 0, 0, 0⟩ = ⟨a, a, a, a⟩ := by
  simp [btInv]

theorem dqAc_zero : dqAc 0 = 0 := by
  rw [dqAc_of_mem (by decide) (by decide), Int.cast_zero, zero_div]

theorem decBlock_encBlock_flat (cfg : Config) (p : Pixel) :
    let q := cscInv cfg ⟨dqDc (qDc (cscFwd cfg p).y), chromaOfIndex cfg (indexOfChroma cfg (cscFwd cfg p).cb),
      chromaOfIndex cfg (indexOfChroma cfg (cscFwd cfg p).cr)⟩
    decBlock cfg (encBlock cfg ⟨p, p, p, p⟩) = ⟨q, q, q, q⟩ := by
  obtain ⟨ha0, ha1⟩ := qDc_range (cscFwd cfg p).y
  rw [encBlock, encFields_flat, decBlock_pack, decLumas_ofInts _ _ ha0 ha1 (by decide) (by decide) (by decide) (by decide)
    (by decide) (by decide), dqAc_zero, btInv_dc]
  simp only [Fields.ofInts, toFin_trunc_index]

/-- Settles O37: a flat block has no AC terms, and without AC terms the four decoded lumas are equal. -/
theorem flatBlocks : Obligations.FlatBlocks := by
  intro cfg p w
  have hw : unpack w = _ := (unpack_encBlock cfg ⟨p, p, p, p⟩).trans (encFields_flat cfg p)
  have hblock : decBlock cfg w = _ := decBlock_encBlock_flat cfg p
  rw [hw, hblock]
  exact ⟨rfl, rfl, rfl, rfl, rfl, rfl⟩

/-- The default matrix and table meet R6. -/
theorem defaults_valid : defaults.Valid := by
  refine ⟨?_, ?_, ?_, defaults_lutValid⟩
  all_goals norm_num [Row3.IsLuma, Row3.IsChroma, defaults, defaultFwd]

/-- Chroma 0 lies midway between the entries 7 and 8, and the lower index wins. -/
theorem indexOfChroma_defaults_zero : indexOfChroma defaults 0 = 7 := by
  obtain ⟨hcount, -, hzero, -⟩ := chromaIntegerForm
  have h := (hcount 0).trans hzero
  rw [Int.cast_zero, zero_div] at h
  exact Fin.ext h

/-- A real value less than `n + 1/2` from a sample becomes a sample at most `n` from it: rounding adds at most 1/2, and the clamp
to 0..255 does not move away from a sample. -/
theorem abs_zext_toSample_sub_le {q : Rat} {v : Sample} {n : Int} (h : |q - zext v| < n + 1 / 2) :
    |zext (toSample q) - zext v| ≤ n := by
  have hround : |((roundAway q - zext v : Int) : Rat)| < (n + 1 : Int) := by
    push_cast
    linarith [abs_sub_le (roundAway q : Rat) q (zext v), abs_roundAway_sub_le q]
  have hround' : |roundAway q - zext v| < n + 1 := by exact_mod_cast hround
  obtain ⟨h0, h1⟩ := zext_range v
  rw [zext_toSample, clamp_eq_max_min (by decide)]
  rw [abs_lt] at hround'
  rw [abs_le]
  omega

/-- Both chroma values of a decoded grey are the entry of index 7. -/
theorem chromaOfIndex_defaults_seven : chromaOfIndex defaults 7 = -(11 / 1000) := by
  have hk : kTable[(7 : Fin 16)] = -11 := by decide
  rw [chromaOfIndex_defaults, hk]
  norm_num

/-- The luma is off by at most 1/1022, and the chroma entry -11/1000 moves the three channels by at most
255 · 1.772 · 0.011 < 5. -/
theorem abs_cscInv_grey_sub_le {y : Rat} (v : Sample) (hy : |y - zext v / 255| ≤ 1 / 1022) :
    let p := cscInv defaults ⟨y, -(11 / 1000), -(11 / 1000)⟩
    |zext p.r - zext v| ≤ 5 ∧ |zext p.g - zext v| ≤ 5 ∧ |zext p.b - zext v| ≤ 5 := by
  obtain ⟨hlow, hhigh⟩ := abs_le.mp hy
  refine ⟨abs_zext_toSample_sub_le ?_, abs_zext_toSample_sub_le ?_, abs_zext_toSample_sub_le ?_⟩
  all_goals
    simp only [Row3.dot, defaults, defaultInv, sampleMax, abs_lt]
    push_cast
    constructor <;> linarith

/-- Settles O38: a grey has no chroma (O14), which both indices code as 7, and its luma comes back within half a step of
1/511 (O25). -/
theorem greyBlocksComeBackWithinFive : Obligations.GreyBlocksComeBackWithinFive := by
  intro v w p
  obtain ⟨hdc, -⟩ := quantizerErrorBounds
  obtain ⟨h0, h1⟩ := normalise_range v
  have hgrey := cscFwd_grey defaults_valid v
  have hw : unpack w = _ := (unpack_encBlock defaults _).trans (encFields_flat defaults ⟨v, v, v⟩)
  have hp : p = _ := congrArg Block.p0 (decBlock_encBlock_flat defaults ⟨v, v, v⟩)
  rw [hgrey, indexOfChroma_defaults_zero] at hw hp
  rw [chromaOfIndex_defaults_seven] at hp
  rw [hw, hp]
  exact ⟨rfl, rfl, abs_cscInv_grey_sub_le v (hdc _ h0 h1)⟩

/-! ### The register after a command (R45, R115, R116) -/

/-- The codeword in the low 32 bits, zeros above. -/
theorem setWidth_codeword (w : Codeword) : w.setWidth 96 = (0#64 ++ w : BitVec 96) :=
  BitVec.setWidth_eq_append (by decide)

/-- What an accepted `ENC` leaves in a build: its codeword, and the listed edges as they were. -/
theorem execWith_enc (cfg : Config) (p0 p1 p2 p3 : Pixel) (s : State) :
    execWith cfg (.enc p0 p1 p2 p3) s =
      .next ⟨true, 0, (0#64 ++ encBlock cfg ⟨p0, p1, p2, p3⟩ : BitVec 96), s.edges⟩ := by
  rw [execWith_eq_hold, ← setWidth_codeword]
  rfl

/-- Settles O39: an accepted command writes its response and nothing else, and that of an `ENC` is its codeword. -/
theorem encCompletes : Obligations.EncCompletes :=
  ⟨by rw [exec_eq_execWith]; exact execWith_enc defaults, execWith_enc⟩

/-- Settles O40: an accepted command writes its response and nothing else, and that of a `DEC` is its four pixels. -/
theorem decCompletes : Obligations.DecCompletes :=
  ⟨fun u w => exec_eq_hold (.dec u w), fun cfg u w => execWith_eq_hold cfg (.dec u w)⟩

/-- Settles O42: in either state the register holds the response of the command afterwards. -/
theorem commandsArePure : Obligations.CommandsArePure := fun i s s' =>
  ⟨_, _, exec_eq_hold i s, exec_eq_hold i s', rfl, rfl, rfl⟩

/-- The samples of block position `k`, as slices of the payload (R43). -/
theorem payloadPixel_eq_samples (d : Payload) (k : Nat) :
    payloadPixel d k = ⟨d.extractLsb' (24 * (3 - k) + 16) 8, d.extractLsb' (24 * (3 - k) + 8) 8,
      d.extractLsb' (24 * (3 - k)) 8⟩ := by
  rw [payloadPixel, Pixel.ofBits, extractLsb'_extractLsb' d (by decide), extractLsb'_extractLsb' d (by decide),
    extractLsb'_extractLsb' d (by decide)]
  rfl

theorem execPayload_zero (cfg : Config) (d : Payload) :
    execPayload cfg 0 d = (encBlock cfg (Block.ofPayload d)).setWidth 96 := rfl

/-- The accepted word `op ‖ d` leaves `Exec(op, d)` in the register. -/
theorem exec_decode_append (op : BitVec 1) (d : Payload) (s : State) (h : 1 + 96 = 97) :
    exec (decode ((op ++ d).cast h)) s =
      .next { s with rspValid := true, rspOp := op, rspData := execPayload defaults op d } := by
  rw [exec_eq_hold, commandResponse_decode, commandOp_append, commandData_append]
  rfl

/-- Settles O43: the two branches of `Exec`, with each pixel of an `ENC` cut from the payload sample by sample, and the response
of the decoded word. -/
theorem acceptedWordStoresExec : Obligations.AcceptedWordStoresExec := by
  refine ⟨fun cfg d => ?_, execPayload_one, fun op d s => exec_decode_append op d s _⟩
  simp only [execPayload_zero, Block.ofPayload, payloadPixel_eq_samples]

end Sys2Proof.Machine

/-! PROOFS. Runs of the machine in 60 (R130, R139): no edge stops a run, and a host that presents its commands edge by edge gets
all their responses; from them O48 and O60. -/

namespace Sys2Proof.Machine

/-! ### No fault and no refusal (R130) -/

/-- Settles O48, by induction on the number of edges: an edge answers the state of R20, from which the rest of the run is safe. -/
theorem everyRunIsSafe : Obligations.EveryRunIsSafe := by
  intro n
  induction n with
  | zero => exact fun _ => trivial
  | succ n ih => exact fun s => ⟨afterEdge s, step_eq_afterEdge s, ih (afterEdge s)⟩

/-! ### A host that always takes responses (R158, R159) -/

theorem State.accept_eq_false_of_not_cmdValid {s : State} (hc : s.ports.cmdValid = false) : s.accept = false := by
  simp [State.accept_eq, hc]

/-- An edge at which the host takes and presents nothing leaves the register empty: what it held is delivered. -/
theorem afterEdgeWith_rspValid_of_taking {s : State} (cfg : Config) (hp : s.ports = Ports.taking) :
    (afterEdgeWith cfg s).rspValid = false := by
  have hrst : s.ports.rst = false := congrArg Ports.rst hp
  have hready : s.ports.rspReady = true := congrArg Ports.rspReady hp
  have ha : s.accept = false := State.accept_eq_false_of_not_cmdValid (congrArg Ports.cmdValid hp)
  have hd : s.deliver = s.rspValid := by simp [State.deliver_eq, hrst, hready]
  cases hv : s.rspValid with
  | true => rw [afterEdgeWith_of_deliver cfg hrst ha (hd.trans hv), State.release_rspValid]
  | false => rw [afterEdgeWith_of_no_transfer cfg hrst ha (hd.trans hv), State.advance_rspValid, hv]

/-- The first command of a feed stands on the ports. -/
theorem present_feed_cons (i : Instr) (cs : List Instr) (s : State) :
    State.present (encode i) { s with edges := feed (i :: cs) } = { s with edges := feed (i :: cs) } := rfl

theorem accept_feed_cons (i : Instr) (cs : List Instr) (s : State) :
    ({ s with edges := feed (i :: cs) } : State).accept = true := by
  rw [← present_feed_cons, State.present_accept]

theorem command_feed_cons (i : Instr) (cs : List Instr) (s : State) :
    ({ s with edges := feed (i :: cs) } : State).command = i := by
  rw [← present_feed_cons, State.present_command, decodeOfEncodeIsTheCommand]

/-- The first edge of a feed puts the response of its command into the register and leaves the feed of the other commands. -/
theorem afterEdge_feed_cons (i : Instr) (cs : List Instr) (s : State) :
    afterEdge { s with edges := feed (i :: cs) } =
      { s.hold (commandResponse defaults i) with edges := feed cs } := by
  rw [afterEdge, afterEdgeWith_of_accept _ (accept_feed_cons i cs s), command_feed_cons]
  rfl

/-- A whole feed, from any register content: every command is accepted, no edge resets, and nothing is left in the register. -/
theorem trace_feed (cs : List Instr) (s : State) :
    let r := trace (cs.length + 1) { s with edges := feed cs }
    r.accepted = cs ∧ r.resets = 0 ∧ r.final.rspValid = false := by
  induction cs generalizing s with
  | nil =>
    have ha : ({ s with edges := feed [] } : State).accept = false := State.accept_eq_false_of_not_cmdValid rfl
    rw [trace_succ, ha]
    exact ⟨rfl, rfl, afterEdgeWith_rspValid_of_taking defaults rfl⟩
  | cons i cs ih =>
    obtain ⟨haccepted, hresets, hfinal⟩ := ih (s.hold (commandResponse defaults i))
    have hrst := State.rst_eq_false_of_accept (accept_feed_cons i cs s)
    rw [List.length_cons, trace_succ, afterEdge_feed_cons, accept_feed_cons, command_feed_cons, hrst]
    exact ⟨congrArg (i :: ·) haccepted, (Nat.zero_add _).trans hresets, hfinal⟩

/-- The responses of a feed follow what was held: by the conservation law of O52, since nothing is held at the end. -/
theorem delivered_feed (cs : List Instr) (s : State) :
    (trace (cs.length + 1) { s with edges := feed cs }).delivered = s.held ++ cs.map (commandResponse defaults) := by
  obtain ⟨haccepted, hresets, hfinal⟩ := trace_feed cs s
  have hlaw := responsesInOrderOfAcceptance _ _ hresets
  rw [haccepted, State.held_of_not_valid _ hfinal, List.append_nil] at hlaw
  exact hlaw.symm

/-! ### Whole-image compression by the machine (R139) -/

/-- Settles O60: `compress` writes the container of the commands' responses, which are what the feed delivers: out of reset
nothing is held before them. -/
theorem machineCompressesTheImage : Obligations.MachineCompressesTheImage := by
  intro r cs hcs
  rw [compress, hcs, delivered_feed cs State.reset]
  rfl

end Sys2Proof.Machine

/-! PROOFS. Reset and hazards in 70 (R152, R153, R158, R159): one edge loses a response only if it resets, and a command that
waits stays on the ports until it is taken; from them O53 to O55. -/

namespace Sys2Proof.Machine

/-! ### What an edge can lose (R152) -/

theorem State.accept_eq_false_of_rst {s : State} (h : s.ports.rst = true) : s.accept = false := by
  simp [State.accept_eq, h]

theorem State.deliver_eq_false_of_rst {s : State} (h : s.ports.rst = true) : s.deliver = false := by
  simp [State.deliver_eq, h]

theorem State.held_length_le_one (s : State) : s.held.length ≤ 1 := by
  rw [State.held]
  split <;> simp

/-- Any edge: what is delivered and then held is a part, in order, of what was held and accepted, and only a reset leaves
anything out, the one response the register holds. -/
theorem edge_sublist_and_length_le (cfg : Config) (s : State) :
    let before := s.held ++ if s.accept then [commandResponse cfg s.command] else []
    let after := (if s.deliver then [s.response] else []) ++ (afterEdgeWith cfg s).held
    after.Sublist before ∧ before.length ≤ after.length + s.ports.rst.toNat := by
  intro before after
  cases hrst : s.ports.rst with
  | true =>
    have hbefore : before = s.held := by simp [before, State.accept_eq_false_of_rst hrst]
    have hafter : after = [] := by simp [after, State.deliver_eq_false_of_rst hrst, afterEdgeWith_of_rst cfg hrst]
    rw [hbefore, hafter]
    exact ⟨List.nil_sublist _, s.held_length_le_one⟩
  | false =>
    have hlaw : before = after := held_append_accepted_eq cfg hrst
    rw [hlaw]
    exact ⟨List.Sublist.refl _, Nat.le_refl _⟩

/-! ### The two sides of the law over a run, split at its first edge -/

theorem held_append_accepted_succ (cfg : Config) (n : Nat) (s : State) :
    s.held ++ (trace (n + 1) s).accepted.map (commandResponse cfg) =
      (s.held ++ if s.accept then [commandResponse cfg s.command] else []) ++
        (trace n (afterEdge s)).accepted.map (commandResponse cfg) := by
  rw [trace_succ]
  cases s.accept <;> simp

theorem delivered_append_held_succ (n : Nat) (s : State) :
    (trace (n + 1) s).delivered ++ (trace (n + 1) s).final.held =
      (if s.deliver then [s.response] else []) ++
        ((trace n (afterEdge s)).delivered ++ (trace n (afterEdge s)).final.held) := by
  rw [trace_succ]
  cases s.deliver <;> simp

/-- Settles O53, by induction on the number of edges: the rest of the run keeps a part of what the first edge leaves, which is
itself a part of what it found. -/
theorem eachResetLosesAtMostOneResponse : Obligations.EachResetLosesAtMostOneResponse := by
  intro n
  induction n with
  | zero => intro s; simp [trace]
  | succ n ih =>
    intro s
    obtain ⟨hsub, hlen⟩ := ih (afterEdge s)
    obtain ⟨hsubEdge, hlenEdge⟩ := edge_sublist_and_length_le defaults s
    have hresets : (trace (n + 1) s).resets = s.ports.rst.toNat + (trace n (afterEdge s)).resets := by rw [trace_succ]
    rw [held_append_accepted_succ, delivered_append_held_succ, hresets]
    refine ⟨(hsub.append_left _).trans ?_, ?_⟩
    · rw [← List.append_assoc]
      exact hsubEdge.append_right _
    · simp only [afterEdge, List.length_append] at hlen hlenEdge ⊢
      omega

/-! ### A command kept on the ports (R153) -/

theorem State.ports_eq_getD (s : State) : s.ports = s.edges.getD 0 Ports.idle := by
  rw [State.ports, List.headD_eq_head?_getD, List.head?_eq_getElem?, List.getD_eq_getElem?_getD]

/-- Every edge uses up one sample, whatever its branch. -/
@[simp] theorem afterEdgeWith_edges (cfg : Config) (s : State) : (afterEdgeWith cfg s).edges = s.edges.tail := by
  unfold afterEdgeWith
  split_ifs <;> rfl

theorem getD_afterEdge_edges (s : State) (j : Nat) :
    (afterEdge s).edges.getD j Ports.idle = s.edges.getD (j + 1) Ports.idle := by
  simp

theorem ports_afterEdge (s : State) : (afterEdge s).ports = s.advance.ports := by
  rw [State.ports, afterEdgeWith_edges, State.ports, State.advance_edges]

theorem State.accept_of_ready {s : State} (hv : s.ports.cmdValid = true) (hrst : s.ports.rst = false)
    (hready : s.ports.rspReady = true) : s.accept = true := by
  simp [State.accept_eq, hv, hrst, hready]

/-- A presented command that is not accepted met a block that was not ready. -/
theorem State.cmdReady_eq_false_of_not_accept {s : State} (hv : s.ports.cmdValid = true) (ha : s.accept = false) :
    s.cmdReady = false := by
  rwa [State.accept, hv, Bool.true_and] at ha

/-- The duty of R153 towards a command that waits: the same command is presented again. -/
theorem command_eq_of_keepsCommand {p q : Ports} (hv : p.cmdValid = true) (h : keepsCommand false p q = true) :
    q.cmdValid = true ∧ q.command = p.command := by
  simp only [keepsCommand, hv, Bool.not_false, Bool.and_self, Bool.not_true, Bool.false_or, Bool.and_eq_true,
    beq_iff_eq] at h
  obtain ⟨⟨hvalid, hop⟩, hdata⟩ := h
  exact ⟨hvalid, by rw [Ports.command, Ports.command, hop, hdata]⟩

/-- Settles O54, by induction on the number of edges: the command is accepted at the first edge, or it is presented again to
the rest of the run; at the edge with `rsp_ready` it cannot be left waiting. -/
theorem stableCommandIsAccepted : Obligations.StableCommandIsAccepted := by
  intro k
  induction k with
  | zero =>
    intro s hv _ hrst hready
    have hrst0 := hrst 0 (Nat.le_refl 0)
    rw [← State.ports_eq_getD] at hrst0 hready
    rw [trace_succ, State.accept_of_ready hv hrst0 hready]
    rfl
  | succ k ih =>
    intro s hv hstable hrst hready
    rw [trace_succ]
    cases ha : s.accept with
    | true => rfl
    | false =>
      obtain ⟨hkeeps, hrest⟩ := hstable
      rw [State.cmdReady_eq_false_of_not_accept hv ha, ← ports_afterEdge] at hkeeps
      obtain ⟨hvNext, hcommand⟩ := command_eq_of_keepsCommand hv hkeeps
      rw [← hcommand]
      refine ih (afterEdge s) hvNext (hrest _ (step_eq_afterEdge s)) (fun j hj => ?_) ?_
      · rw [getD_afterEdge_edges]
        exact hrst (j + 1) (Nat.succ_le_succ hj)
      · rwa [getD_afterEdge_edges]

/-! ### One command per edge (R158, R159) -/

/-- Settles O55: the run of a feed accepts its commands and leaves the register empty, so by the conservation law of O52 their
responses have all been delivered. -/
theorem oneCommandPerEdge : Obligations.OneCommandPerEdge := by
  intro cs s r
  obtain ⟨haccepted, -, hfinal⟩ := trace_feed cs s
  exact ⟨haccepted, delivered_feed cs s, hfinal⟩

end Sys2Proof.Machine
